-- ==== Sys2Proof/Word.lean ====
section
/-!
DEFINITION. The word types of the engine (00_scope.md R9, R10): bytes, 32-bit and 64-bit words, the
eight-word state file (R20) and the 64-byte block (R10, R22). All values are unsigned.
-/

namespace Sys2Proof

/-- `byte` of R9. -/
abbrev Byte := BitVec 8

/-- `w32` of R9. -/
abbrev W32 := BitVec 32

/-- `w64` of R9. -/
abbrev W64 := BitVec 64

/-- The eight 32-bit words of the state-word file `H` (R20). -/
abbrev Hash := Vector W32 8

/-- A block: a byte sequence of length `BLOCK_SIZE` = 64 (R10). The buffer `BUF` has the same shape (R22). -/
abbrev Block := Vector Byte 64

end Sys2Proof
end

