-- ==== Sys2Proof/Syntax.lean ====
section
/-!
DEFINITION. The seven commands of the engine (30_encoding.md R64), one constructor per row of the opcode
table.
-/

namespace Sys2Proof

/-- The two variants (R2, R61): `VAR` = 0 is SHA-256, `VAR` = 1 is SHA-224. -/
inductive Variant where
  | sha256
  | sha224
deriving DecidableEq, Repr

/-- The whole command set (R64). `len` is the operand `LEN` as the unsigned number R63 reads from word 1; that
it fits a 32-bit word is `Instr.wellFormed` (DESIGN CHOICE, log 12). -/
inductive Instr where
  /-- `INIT.256` (40_init.md R81). -/
  | init256
  /-- `INIT.224` (40_init.md R82). -/
  | init224
  /-- `UPDATE` (41_update.md R97): the payload length in bytes. -/
  | update (len : Nat)
  /-- `FINAL.256` (42_final.md R120). -/
  | final256
  /-- `FINAL.224` (42_final.md R121). -/
  | final224
  /-- `EXPORT` (43_export_import.md R135). -/
  | exportSnap
  /-- `IMPORT` (43_export_import.md R136): the offered snapshot length in bytes. -/
  | importSnap (len : Nat)
deriving DecidableEq, Repr

end Sys2Proof
end

