-- ==== Sys2Proof/WellFormed.lean ====
section
/-!
DEFINITION. Which instruction terms the encoding can express: a `LEN` operand lies in 0 .. 2^32 - 1
(30_encoding.md R63, 00_scope.md R8 `LEN_WIDTH`). An `IMPORT` whose `LEN` is not `SNAP_SIZE` is a well-formed
command that faults when it runs (R66, R133).
-/

namespace Sys2Proof

/-- A length operand fits word 1 (R63). -/
def lenFits (len : Nat) : Bool := decide (len < 2 ^ 32)

/-- The instruction is one the encoding of R64 can express. -/
def Instr.wellFormed : Instr → Bool
  | .init256        => true
  | .init224        => true
  | .update len     => lenFits len
  | .final256       => true
  | .final224       => true
  | .exportSnap     => true
  | .importSnap len => lenFits len

end Sys2Proof
end

