-- ==== Sys2Proof/Decode.lean ====
section
/-!
DEFINITION. The command decoder, total on every sequence of command words (30_encoding.md R60 to R67), and
the encoder written from the same table (R64).

The command port carries whole 32-bit words (20_memory.md R40, R50), so the decoder reads a list of words, the
first one issued first.
-/

namespace Sys2Proof

/-! ### Fields of word 0 -/

/-- `OP`, bits 2:0 (R61). -/
def opField (w0 : W32) : BitVec 3 := w0.extractLsb' 0 3

/-- `VAR`, bit 3 (R61), read as a variant. -/
def varField (w0 : W32) : Variant := if w0.extractLsb' 3 1 = 0#1 then .sha256 else .sha224

/-- `RSV`, bits 31:4 (R61). -/
def rsvField (w0 : W32) : BitVec 28 := w0.extractLsb' 4 28

/-- The command word of the three fields (R61), `RSV` = 0. -/
def commandWord (op : BitVec 3) (v : Variant) : W32 :=
  BitVec.append (0#28) (BitVec.append (match v with | .sha256 => 0#1 | .sha224 => 1#1) op)

/-! ### Word 0 -/

/-- What word 0 alone says (R62, R67): a complete format-S command, or a format-L command that needs the next
word as its `LEN`. -/
inductive Head where
  | single (i : Instr)
  | needsLenUpdate
  | needsLenImport
deriving DecidableEq, Repr

/-- Why a word 0 is illegal: the three clauses of R66. -/
inductive Illegal where
  /-- R66 clause 1: `RSV` is not 0. -/
  | reservedBits
  /-- R66 clause 2: `OP` is 0b101, 0b110 or 0b111. -/
  | reservedOp
  /-- R66 clause 3: `VAR` = 1 on UPDATE, EXPORT or IMPORT. -/
  | variantNotAllowed
deriving DecidableEq, Repr

/-- Why the decoder gives no command. `noWord` and `noLen` are no illegal words: the engine waits for a first word
(R53), or holds for `LEN` (R67). -/
inductive DecodeError where
  /-- No command word is pending. -/
  | noWord
  /-- Word 0 is a legal format-L word and word 1 has not arrived (R67). -/
  | noLen
  /-- Word 0 is illegal (R66). -/
  | illegal (why : Illegal) (w0 : W32)
deriving DecidableEq, Repr

/-- A command that has no variant in the source: `VAR` must be 0 (R65). -/
def noVariant (v : Variant) (h : Head) : Except Illegal Head :=
  match v with
  | .sha256 => .ok h
  | .sha224 => .error .variantNotAllowed

/-- The command of `OP` and `VAR` (R67). -/
def decodeOp (op : Nat) (v : Variant) : Except Illegal Head :=
  match op, v with
  | 0, .sha256 => .ok (.single .init256)
  | 0, .sha224 => .ok (.single .init224)
  | 1, v       => noVariant v .needsLenUpdate
  | 2, .sha256 => .ok (.single .final256)
  | 2, .sha224 => .ok (.single .final224)
  | 3, v       => noVariant v (.single .exportSnap)
  | 4, v       => noVariant v .needsLenImport
  | _, _       => .error .reservedOp

/-- `Decode(w0)` of R67. -/
def decodeHead (w0 : W32) : Except Illegal Head :=
  if rsvField w0 = 0#28 then decodeOp (opField w0).toNat (varField w0) else .error .reservedBits

/-- `LEN` from word 1: unsigned, no scaling (R63). -/
def lenOperand (w1 : W32) : Nat := w1.toNat

/-- The command at the head of the words on the port, and the words after it. -/
def decode : List W32 → Except DecodeError (Instr × List W32)
  | [] => .error .noWord
  | w0 :: rest =>
    match decodeHead w0, rest with
    | .error why, _                    => .error (.illegal why w0)
    | .ok (.single i), _               => .ok (i, rest)
    | .ok .needsLenUpdate, []          => .error .noLen
    | .ok .needsLenUpdate, w1 :: rest' => .ok (.update (lenOperand w1), rest')
    | .ok .needsLenImport, []          => .error .noLen
    | .ok .needsLenImport, w1 :: rest' => .ok (.importSnap (lenOperand w1), rest')

/-- How many words the command that word 0 begins has (R60, R62): an illegal word 0 is one word long. -/
def commandLength (w0 : W32) : Nat :=
  match decodeHead w0 with
  | .ok .needsLenUpdate => 2
  | .ok .needsLenImport => 2
  | .ok (.single _)     => 1
  | .error _            => 1

/-! ### The encoder -/

/-- Word 0 of an instruction: the `match` column of R64. -/
def encodeWord0 : Instr → W32
  | .init256      => commandWord 0b000#3 .sha256
  | .init224      => commandWord 0b000#3 .sha224
  | .update _     => commandWord 0b001#3 .sha256
  | .final256     => commandWord 0b010#3 .sha256
  | .final224     => commandWord 0b010#3 .sha224
  | .exportSnap   => commandWord 0b011#3 .sha256
  | .importSnap _ => commandWord 0b100#3 .sha256

/-- The words of an instruction (R60, R64): `LEN` is word 1 of a format-L command. -/
def encode : Instr → List W32
  | .init256        => [encodeWord0 .init256]
  | .init224        => [encodeWord0 .init224]
  | .update len     => [encodeWord0 (.update len), BitVec.ofNat 32 len]
  | .final256       => [encodeWord0 .final256]
  | .final224       => [encodeWord0 .final224]
  | .exportSnap     => [encodeWord0 .exportSnap]
  | .importSnap len => [encodeWord0 (.importSnap len), BitVec.ofNat 32 len]

/-! ### The table's numbering of bits -/

/-- The command words of an instruction whose bits are numbered as the opcode table numbers them: word 0 is bits
31..0 of `w`, word 1 bits 63..32; bits at `nbits` and above are 0. Word 1 is there only where word 0 begins
a two-word command (R62). -/
def tableWords (nbits w : Nat) : List W32 :=
  let bits := w % 2 ^ nbits
  let w0   := BitVec.ofNat 32 bits
  let w1   := BitVec.ofNat 32 (bits / 2 ^ 32)
  if commandLength w0 = 2 then [w0, w1] else [w0]

/-- The instruction the decoder reads from those bits; none where it refuses. -/
def decodeTableWord (nbits w : Nat) : Option Instr :=
  match decode (tableWords nbits w) with
  | .ok (i, _) => some i
  | .error _   => none

end Sys2Proof
end

