-- ==== Sys2Proof/Config.lean ====
section
/-!
DEFINITION. The parameters of the engine (00_scope.md R8) and the model's free values.

A parameter that differs between machines (`SNAP_ENDIAN`, `T1`) is a field of `EngineConfig`, which State
carries and no step changes (DESIGN CHOICE, log 1), so a statement about every state is one about every
configuration. What the spec leaves open is an `opaque` constant with no body: nothing can be proved about
its value.
-/

namespace Sys2Proof

/-- The byte order of the snapshot's words: the parameter `SNAP_ENDIAN` (R8, 20_memory.md R48). -/
inductive Endian where
  | little
  | big
deriving DecidableEq, Repr

/-- Which single-block transform `T1` the machine is configured with (R8, 44_transform.md R150).
`reference` is the instantiation of R156 to R162, which the spec marks as general knowledge (log 2).
`external k` is any other transform that meets the contract of R150: the uninterpreted function
`Config.externalT1 k`. -/
inductive TransformImpl where
  | reference
  | external (k : Nat)
deriving DecidableEq, Repr

/-- The configuration of one engine instance, fixed when the engine is configured and by no command (R193). That each instance has its
own, so that two may differ, is the model's choice (DESIGN CHOICE, log 20). -/
structure EngineConfig where
  /-- `SNAP_ENDIAN` (R48). -/
  snapEndian : Endian
  /-- The choice of `T1` (R150). -/
  transform  : TransformImpl
deriving DecidableEq, Repr

/-- An interface of the engine (20_memory.md R40). -/
inductive Interface where
  | commandPort
  | dataIn
  | dataOut
  | statusOutputs
deriving DecidableEq, Repr

namespace Config

/-- `BLOCK_SIZE` (R8), in bytes. -/
abbrev blockSize : Nat := 64

/-- `PAD_TARGET` (R8): where the length suffix starts in its block. -/
abbrev padTarget : Nat := 56

/-- `DS_256` (R8): the digest bytes `FINAL.256` emits. -/
abbrev ds256 : Nat := 32

/-- `DS_224` (R8): the digest bytes `FINAL.224` emits. -/
abbrev ds224 : Nat := 28

/-- `SNAP_SIZE` (R8): the bytes of a snapshot. -/
abbrev snapSize : Nat := 104

/-- The configuration at reset: `SNAP_ENDIAN` at its default `little` (R8); the reference `T1`
(PRESUMED from the spec's general-knowledge passage, log 2). -/
def default : EngineConfig := { snapEndian := .little, transform := .reference }

/-- Any other transform: total, deterministic, dependent on its two arguments alone (R150); nothing else is
known of it. FREE VALUE, log 1. -/
opaque externalT1 : Nat → Hash → Block → Hash

/-- The draws of R24: the `n`-th free byte, of which nothing is known. FREE VALUE, log 4. There is one such sequence:
that every instance draws from it, each by its own counter, is the model's choice and no law of the spec
(DESIGN CHOICE, log 4). -/
opaque freeByte : Nat → Byte

/-- `PLATFORM_MAP` (R53): where the host places an interface in its own address map. No rule reads it, and
no definition of the model does (log 13). FREE VALUE. -/
opaque platformMap : Interface → Nat

end Config

end Sys2Proof
end

