-- ==== Sys2Proof/Machine/State.lean ====
section
/-!
DEFINITION. The state of one engine instance: the HashState registers (10_state.md R20 to R24), the control state
(R25, R26), the streams and the command port (20_memory.md R40), the transform-call history (R33), and its value
after reset (R35). Plain data.
-/

namespace Sys2Proof.Machine

/-- `LIFE`, the lifecycle tag (R25). Value 3 is never held, so it is no constructor. -/
inductive Life where
  /-- 0: no command has given the HashState a value since reset. -/
  | uninit
  /-- 1: produced by INIT or IMPORT. -/
  | live
  /-- 2: zeroed by FINAL. -/
  | wiped
deriving DecidableEq, Repr

/-- `FAULT_CODE` (R26), with the codes of 60_exceptions.md R171. Codes 5 to 15 are never raised, so they are no
constructors. -/
inductive FaultCode where
  /-- 0: no fault. -/
  | none
  /-- 1: word 0 is illegal under R66. -/
  | illegalCmd
  /-- 2: UPDATE or FINAL while `LIFE` is not `LIVE`. -/
  | notLive
  /-- 3: EXPORT while `LIFE` is `UNINIT`. -/
  | uninitRead
  /-- 4: IMPORT whose `LEN` is not `SNAP_SIZE`. -/
  | snapshotSize
deriving DecidableEq, Repr

/-- Where the blocks of a transform call come from (44_transform.md R153). -/
inductive CallSrc where
  /-- `BUF`: the filled buffer (41_update.md R94). -/
  | buf
  /-- `DATA`: straight from the payload (41_update.md R95). -/
  | data
deriving DecidableEq, Repr

/-- One event `TransformCall(src, q)` with the `q` blocks it passed (R153); `q` is their number (log 18). -/
structure TransformCall where
  src    : CallSrc
  blocks : List Block
deriving DecidableEq, Repr

/-- The state of one engine instance. -/
structure State where
  /-- `H[0..7]` (R20). -/
  h         : Hash
  /-- `COUNT`, in bytes (R21). -/
  count     : W64
  /-- `BUF[0..63]` (R22). -/
  buf       : Block
  /-- `LIFE` (R25). -/
  life      : Life
  /-- `FAULT_CODE` (R26). -/
  faultCode : FaultCode
  /-- `FAULT_WORD` (R26). -/
  faultWord : W32
  /-- Command words issued and not yet taken, first issued first (R40). -/
  cmdPort   : List W32
  /-- Data-in bytes supplied and not yet taken, first supplied first (R41). -/
  dataIn    : List Byte
  /-- Data-out bytes, first emitted first (R42); the host takes them from the front (log 8). -/
  dataOut   : List Byte
  /-- The transform-call history, oldest first (R33, R153). -/
  calls     : List TransformCall
  /-- `cmd_index`: command words taken since reset (R29). No command reads it (log 11). -/
  cmdIndex  : Nat
  /-- THE MODEL'S OWN: how many free bytes this instance has drawn (R24). Instances count apart over the one sequence
  `Config.freeByte` (DESIGN CHOICE, log 4). -/
  draws     : Nat
  /-- The parameters of this machine (R8), changed by no step (log 1). -/
  config    : EngineConfig
deriving DecidableEq, Repr

/-- Why the machine has no step because of a fault it has recorded. -/
inductive Fault where
  /-- Raised by `step` and by every meaning while `FAULT_CODE` is not 0: the engine is halted, takes no command
  word and has no step (R172). `code` is what `FAULT_CODE` holds. Taking a fault is a NEXT state that records it; this
  is what comes after. SAFE: the machine stops where the spec says it does (log 6). -/
  | halted (code : FaultCode)
deriving DecidableEq, Repr

/-- Why the machine has no step though no fault is recorded. -/
inductive Refusal where
  /-- An instruction that has no meaning in the model yet. SAFE. No arm of exec uses it. -/
  | notModelled (mnemonic : String)
  /-- Raised by `step` when no command word is pending: the engine waits for one (R53, R190). SAFE (log 5). -/
  | waitingForCommand
  /-- Raised by `step` when word 1 of a format-L command has not arrived: the engine holds (R67, R43). SAFE (log 5). -/
  | holdingForLen
  /-- Raised by the meanings of UPDATE and IMPORT when the data-in bytes they take are not all there: the engine
  holds, changes no state and has no step (R43). SAFE (log 5). -/
  | holdingForData
  /-- Raised by the system of several instances when a second host issues commands to one instance (R56), or an instance is named that
  the system does not have. SAFE (log 15). -/
  | refusedHost
deriving DecidableEq, Repr

/-- The machine right after reset (R35, R190). `H`, `COUNT` and `BUF` are unspecified there: their zeros are a
DESIGN CHOICE (log 3). So is the draw counter's 0 (log 4): two instances reset alike draw the same terms, a relation
the spec does not give (R24), and no statement may lean on it. -/
def State.reset : State where
  h         := Vector.replicate 8 0#32
  count     := 0#64
  buf       := Vector.replicate 64 0#8
  life      := .uninit
  faultCode := .none
  faultWord := 0#32
  cmdPort   := []
  dataIn    := []
  dataOut   := []
  calls     := []
  cmdIndex  := 0
  draws     := 0
  config    := Config.default

end Sys2Proof.Machine
end

