-- ==== Sys2Proof/Machine/Flags.lean ====
section
/-!
DEFINITION. The status outputs (10_state.md R27): the engine has no flags or condition codes beyond `LIFE`,
`FAULT_CODE` and `HALTED` (R30), and no command computes a flag from its arithmetic.
-/

namespace Sys2Proof.Machine

/-- The value of `LIFE` (R25). -/
def Life.code : Life → BitVec 2
  | .uninit => 0#2
  | .live   => 1#2
  | .wiped  => 2#2

/-- The value of `FAULT_CODE` (R171). -/
def FaultCode.code : FaultCode → BitVec 4
  | .none         => 0#4
  | .illegalCmd   => 1#4
  | .notLive      => 2#4
  | .uninitRead   => 3#4
  | .snapshotSize => 4#4

/-- `HALTED` (R27): `FAULT_CODE` is not 0. -/
def State.halted (s : State) : Bool := s.faultCode != .none

/-- The one bit a truth value reads as. -/
def bitOf (b : Bool) : BitVec 1 := if b then 1#1 else 0#1

/-- `STATUS` (R27): `LIFE` in bits 1:0, `FAULT_CODE` in bits 7:4, `HALTED` in bit 8, every other bit 0. -/
def State.status (s : State) : W32 :=
  BitVec.append (0#23)
    (BitVec.append (bitOf s.halted)
      (BitVec.append s.faultCode.code
        (BitVec.append (0#2) s.life.code)))

end Sys2Proof.Machine
end

