-- ==== Sys2Proof/Machine/Operands.lean ====
section
/-!
DEFINITION. What a command's operands select: the initial words and the digest length by variant (30_encoding.md
R65), and how many bytes each command takes and emits (R68).
-/

namespace Sys2Proof.Machine

/-- `IV_256` (40_init.md R83; the values are general knowledge, log 2). -/
def iv256 : Hash :=
  #v[0x6a09e667#32, 0xbb67ae85#32, 0x3c6ef372#32, 0xa54ff53a#32,
     0x510e527f#32, 0x9b05688c#32, 0x1f83d9ab#32, 0x5be0cd19#32]

/-- `IV_224` (40_init.md R84; the values are general knowledge, log 2). -/
def iv224 : Hash :=
  #v[0xc1059ed8#32, 0x367cd507#32, 0x3070dd17#32, 0xf70e5939#32,
     0xffc00b31#32, 0x68581511#32, 0x64f98fa7#32, 0xbefa4fa4#32]

/-- The initial words `VAR` selects for INIT (R65). -/
def initialWords : Variant → Hash
  | .sha256 => iv256
  | .sha224 => iv224

/-- `DS`, the digest bytes `VAR` selects for FINAL (R65, 42_final.md R116). -/
def digestSize : Variant → Nat
  | .sha256 => Config.ds256
  | .sha224 => Config.ds224

/-- The data-in bytes an instruction takes when it completes (R68). -/
def payloadSize : Instr → Nat
  | .init256        => 0
  | .init224        => 0
  | .update len     => len
  | .final256       => 0
  | .final224       => 0
  | .exportSnap     => 0
  | .importSnap len => if len = Config.snapSize then Config.snapSize else 0

/-- The data-out bytes an instruction emits when it completes (R68). -/
def outputSize : Instr → Nat
  | .init256      => 0
  | .init224      => 0
  | .update _     => 0
  | .final256     => digestSize .sha256
  | .final224     => digestSize .sha224
  | .exportSnap   => Config.snapSize
  | .importSnap _ => 0

end Sys2Proof.Machine
end

