-- ==== Sys2Proof/Machine/Bytes.lean ====
section
/-!
DEFINITION. Byte order and serialization (20_memory.md R45 to R49): the one place where a word becomes bytes
and bytes become a word.
-/

namespace Sys2Proof.Machine

/-- `BE32(w)` (R45): most significant byte first. -/
def be32 (w : W32) : List Byte :=
  [w.extractLsb' 24 8, w.extractLsb' 16 8, w.extractLsb' 8 8, w.extractLsb' 0 8]

/-- `BE64(v)` (R46): most significant byte first. -/
def be64 (v : W64) : List Byte :=
  [v.extractLsb' 56 8, v.extractLsb' 48 8, v.extractLsb' 40 8, v.extractLsb' 32 8,
   v.extractLsb' 24 8, v.extractLsb' 16 8, v.extractLsb' 8 8, v.extractLsb' 0 8]

/-- `W32(w)` of the snapshot in the `SNAP_ENDIAN` order (R48). -/
def snapWord32 (e : Endian) (w : W32) : List Byte :=
  match e with
  | .little => [w.extractLsb' 0 8, w.extractLsb' 8 8, w.extractLsb' 16 8, w.extractLsb' 24 8]
  | .big    => be32 w

/-- `W64(v)` of the snapshot in the `SNAP_ENDIAN` order (R48). -/
def snapWord64 (e : Endian) (v : W64) : List Byte :=
  match e with
  | .little =>
    [v.extractLsb' 0 8, v.extractLsb' 8 8, v.extractLsb' 16 8, v.extractLsb' 24 8,
     v.extractLsb' 32 8, v.extractLsb' 40 8, v.extractLsb' 48 8, v.extractLsb' 56 8]
  | .big    => be64 v

/-- Byte `i` of a byte sequence (R10). Every use is in range; outside it the value is 0 and is never used. -/
def byteAt (d : List Byte) (i : Nat) : Byte := d.getD i 0#8

/-- The number whose bytes are `d`, the first the most significant. -/
def natOfBytesBE : List Byte → Nat → Nat
  | [], acc     => acc
  | b :: d, acc => natOfBytesBE d (acc * 256 + b.toNat)

/-- `n` bytes of `d` from offset `i` on. -/
def bytesFrom (d : List Byte) (i n : Nat) : List Byte := (d.drop i).take n

/-- The number that bytes in the `SNAP_ENDIAN` order stand for (R48, R49). -/
def natOfBytes (e : Endian) (d : List Byte) : Nat :=
  match e with
  | .little => natOfBytesBE d.reverse 0
  | .big    => natOfBytesBE d 0

/-- The 64 bytes of `d` from offset `off` on, as a block (R10). -/
def blockAt (d : List Byte) (off : Nat) : Block := Vector.ofFn fun j => byteAt d (off + j.val)

/-- `Snap(H, COUNT, BUF)` (R48): `H` at offset 0, `COUNT` at 32, `BUF` at 40. -/
def snap (e : Endian) (h : Hash) (count : W64) (buf : Block) : List Byte :=
  h.toList.flatMap (snapWord32 e) ++ snapWord64 e count ++ buf.toList

/-- The `H` of `Unsnap(s)` (R49): `H[i]` from bytes `4i .. 4i+3`. -/
def unsnapH (e : Endian) (d : List Byte) : Hash :=
  Vector.ofFn fun i => BitVec.ofNat 32 (natOfBytes e (bytesFrom d (4 * i.val) 4))

/-- The `COUNT` of `Unsnap(s)` (R49): bytes 32 to 39. -/
def unsnapCount (e : Endian) (d : List Byte) : W64 :=
  BitVec.ofNat 64 (natOfBytes e (bytesFrom d 32 8))

/-- The `BUF` of `Unsnap(s)` (R49): `BUF[j]` is byte `40 + j`. -/
def unsnapBuf (d : List Byte) : Block := blockAt d 40

end Sys2Proof.Machine
end

