-- ==== Sys2Proof/Machine/Transform.lean ====
section
/-!
DEFINITION. The block transform: the multi-block fold of the parameter `T1` (44_transform.md R151), and the
reference instantiation `T1_ref` (R156 to R162; from general knowledge, log 2).
-/

namespace Sys2Proof.Machine

/-- The `q` blocks `d[64k .. 64k+63]` for `k = 0 .. q-1` (R10). -/
def blocksOf (d : List Byte) (q : Nat) : List Block := (List.range q).map fun k => blockAt d (64 * k)

/-- `Transform(H, d, q)` (R151): the left fold of `T1` over the blocks, in order. -/
def transform (t1 : Hash → Block → Hash) (h : Hash) (blocks : List Block) : Hash := blocks.foldl t1 h

/-! ### The reference instantiation -/

/-- `ROTR(x, n)` (R158). -/
def rotr (x : W32) (n : Nat) : W32 := (x >>> n) ||| (x <<< (32 - n))

/-- `Ch(x, y, z)` (R158). -/
def ch (x y z : W32) : W32 := (x &&& y) ^^^ (~~~x &&& z)

/-- `Maj(x, y, z)` (R158). -/
def maj (x y z : W32) : W32 := (x &&& y) ^^^ (x &&& z) ^^^ (y &&& z)

/-- `Σ0(x)` (R158). -/
def bigSigma0 (x : W32) : W32 := rotr x 2 ^^^ rotr x 13 ^^^ rotr x 22

/-- `Σ1(x)` (R158). -/
def bigSigma1 (x : W32) : W32 := rotr x 6 ^^^ rotr x 11 ^^^ rotr x 25

/-- `σ0(x)` (R158). -/
def smallSigma0 (x : W32) : W32 := rotr x 7 ^^^ rotr x 18 ^^^ (x >>> 3)

/-- `σ1(x)` (R158). -/
def smallSigma1 (x : W32) : W32 := rotr x 17 ^^^ rotr x 19 ^^^ (x >>> 10)

/-- The round constants `K[0..63]` (R161). -/
def roundConstants : List W32 :=
  [0x428a2f98#32, 0x71374491#32, 0xb5c0fbcf#32, 0xe9b5dba5#32, 0x3956c25b#32, 0x59f111f1#32, 0x923f82a4#32, 0xab1c5ed5#32] ++
  [0xd807aa98#32, 0x12835b01#32, 0x243185be#32, 0x550c7dc3#32, 0x72be5d74#32, 0x80deb1fe#32, 0x9bdc06a7#32, 0xc19bf174#32] ++
  [0xe49b69c1#32, 0xefbe4786#32, 0x0fc19dc6#32, 0x240ca1cc#32, 0x2de92c6f#32, 0x4a7484aa#32, 0x5cb0a9dc#32, 0x76f988da#32] ++
  [0x983e5152#32, 0xa831c66d#32, 0xb00327c8#32, 0xbf597fc7#32, 0xc6e00bf3#32, 0xd5a79147#32, 0x06ca6351#32, 0x14292967#32] ++
  [0x27b70a85#32, 0x2e1b2138#32, 0x4d2c6dfc#32, 0x53380d13#32, 0x650a7354#32, 0x766a0abb#32, 0x81c2c92e#32, 0x92722c85#32] ++
  [0xa2bfe8a1#32, 0xa81a664b#32, 0xc24b8b70#32, 0xc76c51a3#32, 0xd192e819#32, 0xd6990624#32, 0xf40e3585#32, 0x106aa070#32] ++
  [0x19a4c116#32, 0x1e376c08#32, 0x2748774c#32, 0x34b0bcb5#32, 0x391c0cb3#32, 0x4ed8aa4a#32, 0x5b9cca4f#32, 0x682e6ff3#32] ++
  [0x748f82ee#32, 0x78a5636f#32, 0x84c87814#32, 0x8cc70208#32, 0x90befffa#32, 0xa4506ceb#32, 0xbef9a3f7#32, 0xc67178f2#32]

/-- Word `t` of the block, big-endian (R157). -/
def blockWord (blk : Block) (t : Nat) : W32 :=
  BitVec.ofNat 32 (natOfBytesBE (bytesFrom blk.toList (4 * t) 4) 0)

/-- The next schedule word, from the words so far with the latest first (R159): `W[t-2]` is at position 1, `W[t-7]` at 6,
`W[t-15]` at 14 and `W[t-16]` at 15. -/
def nextScheduleWord (latestFirst : List W32) : W32 :=
  smallSigma1 (latestFirst.getD 1 0#32) + latestFirst.getD 6 0#32
    + smallSigma0 (latestFirst.getD 14 0#32) + latestFirst.getD 15 0#32

/-- `n` more schedule words, the latest first (R159). -/
def extendSchedule : Nat → List W32 → List W32
  | 0, ws     => ws
  | n + 1, ws => extendSchedule n (nextScheduleWord ws :: ws)

/-- The message schedule `W[0..63]` (R157, R159). -/
def schedule (blk : Block) : List W32 :=
  (extendSchedule 48 ((List.range 16).map (blockWord blk)).reverse).reverse

/-- The working variables `a .. h` (R160). -/
structure Working where
  a : W32
  b : W32
  c : W32
  d : W32
  e : W32
  f : W32
  g : W32
  h : W32
deriving DecidableEq, Repr

/-- One round (R160), with its constant and its schedule word. -/
def compressRound (v : Working) (kw : W32 × W32) : Working :=
  let t1 := v.h + bigSigma1 v.e + ch v.e v.f v.g + kw.1 + kw.2
  let t2 := bigSigma0 v.a + maj v.a v.b v.c
  { a := t1 + t2, b := v.a, c := v.b, d := v.c, e := v.d + t1, f := v.e, g := v.f, h := v.g }

/-- The working variables before round 0 (R160). -/
def workingOf (h : Hash) : Working :=
  { a := h[0], b := h[1], c := h[2], d := h[3], e := h[4], f := h[5], g := h[6], h := h[7] }

/-- `T1_ref(H, blk)` (R156, R162). -/
def t1Ref (h : Hash) (blk : Block) : Hash :=
  let v := (roundConstants.zip (schedule blk)).foldl compressRound (workingOf h)
  #v[h[0] + v.a, h[1] + v.b, h[2] + v.c, h[3] + v.d, h[4] + v.e, h[5] + v.f, h[6] + v.g, h[7] + v.h]

/-- The single-block transform `T1` a machine is configured with (R150). Both variants use it (R154). -/
def t1Of : TransformImpl → Hash → Block → Hash
  | .reference  => t1Ref
  | .external k => Config.externalT1 k

end Sys2Proof.Machine
end

