-- ==== Sys2Proof/Machine/Ops.lean ====
section
/-!
DEFINITION. The shared operations of the engine over its state: the streams (20_memory.md R41 to R43), the fault
entry (60_exceptions.md R172), the buffer, the absorption (41_update.md R90), the digest and the wipe (42_final.md R116
to R118). The meanings of the commands call these and nothing lower.
-/

namespace Sys2Proof.Machine

/-! ### Outcomes -/

/-- A command of an engine that is not halted: a halted engine takes no command and has no step (R172; that the
meanings say so too is log 14). -/
def whenRunning (s : State) (k : Host.Outcome State Fault Refusal) : Host.Outcome State Fault Refusal :=
  if s.faultCode = .none then k else .fault (.halted s.faultCode)

/-- Taking a fault (R172): the code and the command's word 0 are recorded, and nothing else changes. The engine
is then halted, because `FAULT_CODE` is not 0. There is no return from it (R179); reset is the only way out (R191). -/
def raiseFault (code : FaultCode) (word0 : W32) (s : State) : State :=
  { s with faultCode := code, faultWord := word0 }

/-! ### Streams and the command port -/

/-- The engine takes `n` words from the command port. -/
def takeWords (n : Nat) (s : State) : State :=
  { s with cmdPort := s.cmdPort.drop n, cmdIndex := s.cmdIndex + n }

/-- `DataIn(n)` (R41, R43): the next `n` bytes and the state without them; none while fewer are available. -/
def dataInTake (n : Nat) (s : State) : Option (List Byte × State) :=
  if n ≤ s.dataIn.length then some (s.dataIn.take n, { s with dataIn := s.dataIn.drop n }) else none

/-- `DataOut(d)` (R42). -/
def emit (d : List Byte) (s : State) : State := { s with dataOut := s.dataOut ++ d }

/-! ### The HashState -/

/-- `fill` (R12, R22): the buffer's logical length, `COUNT mod 64`. -/
def fill (s : State) : Nat := s.count.toNat % 64

/-- Bytes `d` written into the buffer at offset `off`; the other bytes keep their values. -/
def writeBuf (off : Nat) (d : List Byte) (s : State) : State :=
  { s with buf := Vector.ofFn fun i : Fin 64 =>
      if off ≤ i.val ∧ i.val < off + d.length then byteAt d (i.val - off) else s.buf[i] }

/-- `BUF[i] <- ?` for `i = e .. 63` (R11, R24): each of those bytes becomes a free value this instance has not drawn
before. That another instance whose counter is equal draws the same terms (R131 relates no two instances) is the
model's choice (DESIGN CHOICE, log 4). -/
def forgetBuf (e : Nat) (s : State) : State :=
  { s with
    buf   := Vector.ofFn fun i : Fin 64 => if i.val < e then s.buf[i] else Config.freeByte (s.draws + (i.val - e))
    draws := s.draws + (64 - e) }

/-- One call of the transform on `blocks`, recorded as one event (44_transform.md R151, R153). -/
def callTransform (src : CallSrc) (blocks : List Block) (s : State) : State :=
  { s with
    h     := transform (t1Of s.config.transform) s.h blocks
    calls := s.calls ++ [{ src := src, blocks := blocks }] }

/-- `COUNT <- (COUNT + n) mod 2^64` (R91). -/
def addCount (n : Nat) (s : State) : State := { s with count := s.count + BitVec.ofNat 64 n }

/-- The slow path of R90, steps 3a to 3c, on the state whose `COUNT` is already advanced: fill the buffer from
`part` on and transform it (R93, R94), transform the whole blocks that follow straight from the payload (R95), keep the
remainder (R96). -/
def absorbBlocks (part : Nat) (d : List Byte) (s : State) : State :=
  let f    := 64 - part
  let s1   := writeBuf part (d.take f) s
  let s2   := callTransform .buf [s1.buf] s1
  let rest := d.drop f
  let q    := rest.length / 64
  let s3   := if 1 ≤ q then callTransform .data (blocksOf rest q) s2 else s2
  let tail := rest.drop (64 * q)
  forgetBuf tail.length (writeBuf 0 tail s3)

/-- `Absorb(d)` (R90): `partial` is read before `COUNT` grows (R91); the fast path when the bytes do not fill the
buffer (R92), else the slow path. -/
def absorb (d : List Byte) (s : State) : State :=
  let part := fill s
  let s1   := addCount d.length s
  if part + d.length < 64 then writeBuf part d s1 else absorbBlocks part d s1

/-- INIT's writes (40_init.md R80): `H`, `COUNT` and `LIFE`; `BUF` is untouched. -/
def startMessage (v : Variant) (s : State) : State :=
  { s with h := initialWords v, count := 0#64, life := .live }

/-- IMPORT's writes (43_export_import.md R134): the whole HashState from the snapshot, and `LIFE`. -/
def loadSnapshot (d : List Byte) (s : State) : State :=
  { s with
    h     := unsnapH s.config.snapEndian d
    count := unsnapCount s.config.snapEndian d
    buf   := unsnapBuf d
    life  := .live }

/-- The wipe (42_final.md R118). -/
def wipe (s : State) : State :=
  { s with h := Vector.replicate 8 0#32, count := 0#64, buf := Vector.replicate 64 0#8, life := .wiped }

/-! ### Padding and digest -/

/-- `bit_length` (R110): `COUNT * 8` modulo 2^64. -/
def bitLength (count : W64) : W64 := count * 8#64

/-- `padlen` (R112). -/
def padLen (index : Nat) : Nat :=
  if index < Config.padTarget then Config.padTarget - index else Config.blockSize + Config.padTarget - index

/-- `PAD(n)` (R113): `0x80`, then `n - 1` zeros. -/
def padBytes (n : Nat) : List Byte := 0x80#8 :: List.replicate (n - 1) 0#8

/-- The padding and the length suffix, both by absorption (R114); `bit_length` and `index` are read first (R110, R111). -/
def absorbSuffix (s : State) : State :=
  absorb (be64 (bitLength s.count)) (absorb (padBytes (padLen (fill s))) s)

/-- `D` (R116): the eight words, big-endian, `H[0]` first. -/
def digestBytes (h : Hash) : List Byte := h.toList.flatMap be32

/-- FINAL on a LIVE state (R120): suffix, the first `DS` bytes of `D` on data-out, wipe. -/
def finishMessage (v : Variant) (s : State) : State :=
  let s1 := absorbSuffix s
  wipe (emit ((digestBytes s1.h).take (digestSize v)) s1)

/-- What EXPORT sees of `BUF` (R24, R131): while LIVE each byte at or beyond `fill` is a draw, taken now. -/
def observedBuf (s : State) : Block :=
  if s.life = .live then (forgetBuf (fill s) s).buf else s.buf

/-- The draws that observation takes. -/
def drawsObserved (s : State) : Nat := if s.life = .live then 64 - fill s else 0

/-- EXPORT on a state that is not UNINIT (R130, R131, R135): the snapshot on data-out; no register is written. -/
def exportSnapshot (s : State) : State :=
  emit (snap s.config.snapEndian s.h s.count (observedBuf s)) { s with draws := s.draws + drawsObserved s }

/-! ### The commands' shared shapes -/

/-- UPDATE and FINAL need `LIFE = LIVE`; otherwise `NOT_LIVE` (R174). -/
def ifLive (word0 : W32) (s : State) (k : Host.Outcome State Fault Refusal) : Host.Outcome State Fault Refusal :=
  if s.life = .live then k else .next (raiseFault .notLive word0 s)

/-- A command that takes `n` data-in bytes: it holds until they are available (R43). -/
def withDataIn (n : Nat) (s : State) (k : List Byte → State → State) : Host.Outcome State Fault Refusal :=
  match dataInTake n s with
  | some (d, t) => .next (k d t)
  | none        => .refused .holdingForData

end Sys2Proof.Machine
end

