-- ==== Sys2Proof/Machine/Final.lean ====
section
/-!
DEFINITION. Finalization (42_final.md): FINAL.256 and FINAL.224. The state holds no variant, so the command's own
`VAR` alone sets the output length (R122).
-/

namespace Sys2Proof.Machine

/-- `FINAL.256` (R120). -/
def execFinal256 (s : State) : Host.Outcome State Fault Refusal :=
  whenRunning s (ifLive (encodeWord0 .final256) s (.next (finishMessage .sha256 s)))

/-- `FINAL.224` (R121). -/
def execFinal224 (s : State) : Host.Outcome State Fault Refusal :=
  whenRunning s (ifLive (encodeWord0 .final224) s (.next (finishMessage .sha224 s)))

end Sys2Proof.Machine
end

