-- ==== Sys2Proof/Machine/Init.lean ====
section
/-!
DEFINITION. The variant initializer (40_init.md): INIT.256 and INIT.224.
-/

namespace Sys2Proof.Machine

/-- `INIT.256` (R80, R81), whatever `LIFE` is. -/
def execInit256 (s : State) : Host.Outcome State Fault Refusal :=
  whenRunning s (.next (startMessage .sha256 s))

/-- `INIT.224` (R80, R82), whatever `LIFE` is. -/
def execInit224 (s : State) : Host.Outcome State Fault Refusal :=
  whenRunning s (.next (startMessage .sha224 s))

end Sys2Proof.Machine
end

