-- ==== Sys2Proof/Machine/Snapshot.lean ====
section
/-!
DEFINITION. Hash-state export and import (43_export_import.md): EXPORT and IMPORT.
-/

namespace Sys2Proof.Machine

/-- `EXPORT` (R135): `UNINIT_READ` when nothing has given the HashState a value (R175). -/
def execExport (s : State) : Host.Outcome State Fault Refusal :=
  whenRunning s
    (if s.life = .uninit then .next (raiseFault .uninitRead (encodeWord0 .exportSnap) s)
     else .next (exportSnapshot s))

/-- `IMPORT` (R136): the size check comes before any data-in byte is taken (R133); no lifecycle precondition (R134). -/
def execImport (len : Nat) (s : State) : Host.Outcome State Fault Refusal :=
  whenRunning s
    (if len = Config.snapSize then withDataIn (payloadSize (.importSnap len)) s loadSnapshot
     else .next (raiseFault .snapshotSize (encodeWord0 (.importSnap len)) s))

end Sys2Proof.Machine
end

