-- ==== Sys2Proof/Machine/Update.lean ====
section
/-!
DEFINITION. The update engine (41_update.md): UPDATE.
-/

namespace Sys2Proof.Machine

/-- `UPDATE` (R97): the `LIFE` check comes before any data-in byte is taken, also for `LEN` = 0 (R98). -/
def execUpdate (len : Nat) (s : State) : Host.Outcome State Fault Refusal :=
  whenRunning s (ifLive (encodeWord0 (.update len)) s (withDataIn (payloadSize (.update len)) s absorb))

end Sys2Proof.Machine
end

