-- ==== Sys2Proof/Machine/Dispatch.lean ====
section
/-!
DEFINITION. exec: the meaning of every command, one arm per constructor of Instr.
-/

namespace Sys2Proof.Machine

def exec (i : Instr) (s : State) : Host.Outcome State Fault Refusal :=
  match i with
  | .init256 => Sys2Proof.Machine.execInit256 s
  | .init224 => Sys2Proof.Machine.execInit224 s
  | .update len => Sys2Proof.Machine.execUpdate len s
  | .final256 => Sys2Proof.Machine.execFinal256 s
  | .final224 => Sys2Proof.Machine.execFinal224 s
  | .exportSnap => Sys2Proof.Machine.execExport s
  | .importSnap len => Sys2Proof.Machine.execImport len s

end Sys2Proof.Machine
end

