-- ==== Sys2Proof/Machine/Fetch.lean ====
section
/-!
DEFINITION. What the engine finds on its command port (30_encoding.md R62, R67; 60_exceptions.md R172, R178), and
how a command is put there.
-/

namespace Sys2Proof.Machine

/-- What the engine does next, before any command runs. -/
inductive Fetched where
  /-- `FAULT_CODE` is not 0: no command is examined at all (R178). -/
  | halted (code : FaultCode)
  /-- No command word is pending (R53). -/
  | waiting
  /-- The command's `LEN` word has not arrived (R67). -/
  | needsLen
  /-- Word 0 is illegal (R66). -/
  | illegal (word0 : W32)
  /-- A command of `words` command words. -/
  | command (i : Instr) (words : Nat)
deriving DecidableEq, Repr

/-- The head of the command port, in the order of R178. -/
def fetch (s : State) : Fetched :=
  if s.faultCode ≠ .none then .halted s.faultCode
  else match decode s.cmdPort with
    | .ok (i, rest)         => .command i (s.cmdPort.length - rest.length)
    | .error .noWord         => .waiting
    | .error .noLen          => .needsLen
    | .error (.illegal _ w0) => .illegal w0

/-- `ILLEGAL_CMD` (R173): the engine takes word 0 alone and faults on it. -/
def takeIllegal (word0 : W32) (s : State) : State := raiseFault .illegalCmd word0 (takeWords 1 s)

/-- The state with command words put before those already pending on the port. -/
def putFirst (ws : List W32) (s : State) : State := { s with cmdPort := ws ++ s.cmdPort }

end Sys2Proof.Machine
end

