-- ==== Sys2Proof/Machine/Step.lean ====
section
/-!
DEFINITION. One step of the engine: take the next command's words from the port and run it, as one atomic step
(20_memory.md R51, R54; 30_encoding.md R67).
-/

namespace Sys2Proof.Machine

/-- One step. A halted engine and an engine that waits or holds have none (R172, R43); an illegal word 0 takes the
fault `ILLEGAL_CMD` (R173). -/
def step (s : State) : Host.Outcome State Fault Refusal :=
  match fetch s with
  | .halted code     => .fault (.halted code)
  | .waiting         => .refused .waitingForCommand
  | .needsLen        => .refused .holdingForLen
  | .illegal word0   => .next (takeIllegal word0 s)
  | .command i words => exec i (takeWords words s)

/-- The state whose next command is the instruction with bits `w`, numbered as the opcode table numbers them: its
words stand first on the command port, before any pending ones (log 7). -/
def State.withFetchWord (s : State) (nbits w : Nat) : State := putFirst (tableWords nbits w) s

end Sys2Proof.Machine
end

