-- ==== Sys2Proof/Machine/HostPort.lean ====
section
/-!
DEFINITION. What the host and the platform do to one engine, between its steps (20_memory.md R40 to R44, R51;
10_state.md R27; 70_reset_and_hazards.md R190). None of these is a step of the engine.
-/

namespace Sys2Proof.Machine

/-- The host issues command words, after those already pending (R40, R54). -/
def issue (ws : List W32) (s : State) : State := { s with cmdPort := s.cmdPort ++ ws }

/-- The host supplies data-in bytes, after those already pending (R41). -/
def supply (bs : List Byte) (s : State) : State := { s with dataIn := s.dataIn ++ bs }

/-- The host issues a command and supplies the bytes that go with it (R44, R68). -/
def issueCommand (i : Instr) (payload : List Byte) (s : State) : State := supply payload (issue (encode i) s)

/-- The host takes data-out bytes from the front of the stream (R44). The engine never waits for it. -/
def takeDataOut (n : Nat) (s : State) : List Byte × State :=
  (s.dataOut.take n, { s with dataOut := s.dataOut.drop n })

/-- The host samples `STATUS` (R27): no side effect (R52). -/
def sampleStatus (s : State) : W32 × State := (s.status, s)

/-- The host samples `FAULT_WORD` (R27): no side effect (R52). -/
def sampleFaultWord (s : State) : W32 × State := (s.faultWord, s)

/-- What the host can do to its engine: the four interfaces of R40, and nothing else. No register of R20 to R26 is
among them. -/
inductive HostAct where
  /-- Issue command words. -/
  | issueWords (ws : List W32)
  /-- Supply data-in bytes. -/
  | supplyBytes (bs : List Byte)
  /-- Take up to `n` data-out bytes. -/
  | takeBytes (n : Nat)
  /-- Sample `STATUS`. -/
  | readStatus
  /-- Sample `FAULT_WORD`. -/
  | readFaultWord
deriving DecidableEq, Repr

/-- What the host gets from an act. -/
inductive HostAnswer where
  | nothing
  | bytes (d : List Byte)
  | word (w : W32)
deriving DecidableEq, Repr

/-- The data-out bytes an answer hands to the host. -/
def HostAnswer.handed : HostAnswer → List Byte
  | .nothing => []
  | .bytes d => d
  | .word _  => []

/-- The act: what the host gets, and the engine after it. -/
def HostAct.run (act : HostAct) (s : State) : HostAnswer × State :=
  match act with
  | .issueWords ws  => (.nothing, issue ws s)
  | .supplyBytes bs => (.nothing, supply bs s)
  | .takeBytes n    => (.bytes (takeDataOut n s).1, (takeDataOut n s).2)
  | .readStatus     => (.word (sampleStatus s).1, (sampleStatus s).2)
  | .readFaultWord  => (.word (sampleFaultWord s).1, (sampleFaultWord s).2)

/-- The engine after the act. -/
def HostAct.after (act : HostAct) (s : State) : State := (act.run s).2

/-- The command words an act issues. -/
def HostAct.words : HostAct → List W32
  | .issueWords ws => ws
  | .supplyBytes _ => []
  | .takeBytes _   => []
  | .readStatus    => []
  | .readFaultWord => []

/-- The data-in bytes an act supplies. -/
def HostAct.supplies : HostAct → List Byte
  | .issueWords _   => []
  | .supplyBytes bs => bs
  | .takeBytes _    => []
  | .readStatus     => []
  | .readFaultWord  => []

/-- The platform asserts reset (R190): every piece of state at its reset value. The parameters of the machine stay
(R193), and the model's draw counter goes on, so that no free value is drawn twice (log 10). -/
def assertReset (s : State) : State := { State.reset with config := s.config, draws := s.draws }

end Sys2Proof.Machine
end

