-- ==== Sys2Proof/Machine/Assembler.lean ====
section
/-!
DEFINITION. The assembler syntax and the pseudo-commands (30_encoding.md R69, R70): notation for command programs, no
behaviour of the engine. Text is a list of characters; what R69 leaves open of the text form is log 16.
-/

namespace Sys2Proof.Machine

/-- A payload as R69 writes it: quoted ASCII text, or `hex:` and hex digits. -/
inductive Payload where
  | text (chars : List Char)
  | hex (digits : List Char)
deriving DecidableEq, Repr

/-- One line: a command of R64 or a pseudo-command of R70. -/
inductive AsmLine where
  | initLine (v : Variant)
  | updateLine (len : Nat) (payload : Payload)
  | finalLine (v : Variant)
  | exportLine
  | importLine (len : Nat) (payload : Payload)
  | hashLine (v : Variant) (len : Nat) (payload : Payload)
  | reinitLine (v : Variant)
deriving DecidableEq, Repr

/-- What a program assembles to: the command words and the data-in bytes. -/
structure Assembled where
  words  : List W32
  dataIn : List Byte
deriving DecidableEq, Repr

/-- The value of a hex digit. -/
def hexDigit (c : Char) : Option Nat :=
  let n := c.toNat
  if 48 ≤ n ∧ n ≤ 57 then some (n - 48)
  else if 97 ≤ n ∧ n ≤ 102 then some (n - 87)
  else if 65 ≤ n ∧ n ≤ 70 then some (n - 55)
  else none

/-- Bytes from hex digits, two a byte, the first the high one. -/
def bytesOfHex : List Char → Option (List Byte)
  | []          => some []
  | [_]         => none
  | a :: b :: r =>
    match hexDigit a, hexDigit b, bytesOfHex r with
    | some x, some y, some d => some (BitVec.ofNat 8 (16 * x + y) :: d)
    | _, _, _                => none

/-- Bytes from ASCII text. -/
def bytesOfText : List Char → Option (List Byte)
  | []     => some []
  | c :: r =>
    match bytesOfText r with
    | some d => if c.toNat < 128 then some (BitVec.ofNat 8 c.toNat :: d) else none
    | none   => none

/-- The bytes of a payload. -/
def Payload.bytes : Payload → Option (List Byte)
  | .text cs => bytesOfText cs
  | .hex ds  => bytesOfHex ds

/-- A line's real commands, in order (R70). -/
def AsmLine.expand : AsmLine → List AsmLine
  | .hashLine v len p  => [.initLine v, .updateLine len p, .finalLine v]
  | .reinitLine v      => [.initLine v]
  | .initLine v        => [.initLine v]
  | .updateLine len p  => [.updateLine len p]
  | .finalLine v       => [.finalLine v]
  | .exportLine        => [.exportLine]
  | .importLine len p  => [.importLine len p]

/-- A command with no payload. -/
def bareCommand (i : Instr) : Option Assembled := some { words := encode i, dataIn := [] }

/-- A command with a payload: refused where the payload's length is not its `<len>`, or `<len>` does not fit (R69). That this
holds of an IMPORT line too, for which R69 says the assembler accepts any `<len>`, is the model's choice (DESIGN CHOICE, log 16): any
`<len>` is accepted, with a payload of that length. -/
def payloadCommand (i : Instr) (len : Nat) (p : Payload) : Option Assembled :=
  match p.bytes with
  | some d => if i.wellFormed ∧ d.length = len then some { words := encode i, dataIn := d } else none
  | none   => none

/-- One real command's words and data-in bytes (R69). A snapshot is written in hex. -/
def AsmLine.assemble : AsmLine → Option Assembled
  | .initLine .sha256         => bareCommand .init256
  | .initLine .sha224         => bareCommand .init224
  | .updateLine len p         => payloadCommand (.update len) len p
  | .finalLine .sha256        => bareCommand .final256
  | .finalLine .sha224        => bareCommand .final224
  | .exportLine               => bareCommand .exportSnap
  | .importLine len (.hex ds) => payloadCommand (.importSnap len) len (.hex ds)
  | .importLine _ (.text _)   => none
  | .hashLine _ _ _           => none
  | .reinitLine _             => none

/-- Real commands, in order. -/
def assembleReal : List AsmLine → Option Assembled
  | []     => some { words := [], dataIn := [] }
  | l :: r =>
    match l.assemble, assembleReal r with
    | some a, some b => some { words := a.words ++ b.words, dataIn := a.dataIn ++ b.dataIn }
    | _, _           => none

/-- A program: pseudo-commands expand first (R70). -/
def assemble (p : List AsmLine) : Option Assembled := assembleReal (p.flatMap AsmLine.expand)

/-- The host issues an assembled program. -/
def load (a : Assembled) (s : State) : State := supply a.dataIn (issue a.words s)

/-! ### The text form -/

/-- A blank inside a line. -/
def isBlank (c : Char) : Bool := c == ' ' || c == '\t'

/-- The text without the blanks around it. -/
def trimBlanks (cs : List Char) : List Char := ((cs.dropWhile isBlank).reverse.dropWhile isBlank).reverse

/-- The line up to a comment: a `;` outside quotes begins one (R69). -/
def stripComment : Bool → List Char → List Char
  | _, []          => []
  | inQuotes, c :: r =>
    if c == ';' && !inQuotes then [] else c :: stripComment (if c == '"' then !inQuotes else inQuotes) r

/-- A number from digits of a base, the first the most significant. -/
def numberOf (base : Nat) : List Char → Nat → Option Nat
  | [], acc     => some acc
  | c :: r, acc =>
    match hexDigit c with
    | some x => if x < base then numberOf base r (acc * base + x) else none
    | none   => none

/-- A decimal or `0x`-prefixed number (R69). -/
def parseNumber (cs : List Char) : Option Nat :=
  match cs with
  | []                  => none
  | '0' :: 'x' :: []    => none
  | '0' :: 'x' :: c :: r => numberOf 16 (c :: r) 0
  | c :: r              => numberOf 10 (c :: r) 0

/-- `"text"` or `hex:<digits>` (R69). -/
def parsePayload (cs : List Char) : Option Payload :=
  match cs with
  | '"' :: r =>
    match r.reverse with
    | '"' :: body => if body.contains '"' then none else some (.text body.reverse)
    | _           => none
  | 'h' :: 'e' :: 'x' :: ':' :: ds => some (.hex ds)
  | _ => none

/-- `<len>, <payload>`. -/
def parseOperands (cs : List Char) : Option (Nat × Payload) :=
  match cs.dropWhile (· != ',') with
  | _ :: r =>
    match parseNumber (trimBlanks (cs.takeWhile (· != ','))), parsePayload (trimBlanks r) with
    | some len, some p => some (len, p)
    | _, _             => none
  | [] => none

/-- The mnemonics of R69 and R70, case-sensitive, that take no operand. -/
def bareLines : List (List Char × AsmLine) :=
  [ (['I','N','I','T','.','2','5','6'], .initLine .sha256),
    (['I','N','I','T','.','2','2','4'], .initLine .sha224),
    (['F','I','N','A','L','.','2','5','6'], .finalLine .sha256),
    (['F','I','N','A','L','.','2','2','4'], .finalLine .sha224),
    (['E','X','P','O','R','T'], .exportLine),
    (['R','E','I','N','I','T','.','2','5','6'], .reinitLine .sha256),
    (['R','E','I','N','I','T','.','2','2','4'], .reinitLine .sha224) ]

/-- The line of a mnemonic that takes `<len>, <payload>`. -/
def operandLine (mnemonic : List Char) (len : Nat) (p : Payload) : Option AsmLine :=
  if mnemonic = ['U','P','D','A','T','E'] then some (.updateLine len p)
  else if mnemonic = ['I','M','P','O','R','T'] then some (.importLine len p)
  else if mnemonic = ['H','A','S','H','.','2','5','6'] then some (.hashLine .sha256 len p)
  else if mnemonic = ['H','A','S','H','.','2','2','4'] then some (.hashLine .sha224 len p)
  else none

/-- One line of text: no line where it holds only blanks and a comment, refused where it is none of R69's forms. -/
def parseLine (cs : List Char) : Option (List AsmLine) :=
  let line     := trimBlanks (stripComment false cs)
  let mnemonic := line.takeWhile (fun c => !isBlank c)
  let operands := trimBlanks (line.dropWhile (fun c => !isBlank c))
  if line = [] then some []
  else match bareLines.lookup mnemonic, operands with
    | some l, [] => some [l]
    | some _, _  => none
    | none, _    =>
      match parseOperands operands with
      | some (len, p) => (operandLine mnemonic len p).map fun l => [l]
      | none          => none

/-- The lines of a program text, one command a line (R69). -/
def parseLines : List (List Char) → Option (List AsmLine)
  | []     => some []
  | l :: r =>
    match parseLine l, parseLines r with
    | some a, some b => some (a ++ b)
    | _, _           => none

end Sys2Proof.Machine
end

