-- ==== Sys2Proof/Machine/Run.lean ====
section
/-!
DEFINITION. A run of a command program on one engine, whether it has ended well, and what is observed of it
(70_reset_and_hazards.md R204). A run remembers what the host put in and what came out, so that a byte the host has already taken is
still observed. What R204 leaves open of it is log 19.
-/

namespace Sys2Proof.Machine

/-! ### Programs -/

/-- A command program: commands with their payloads, in order (R204). What the host puts on the command port and on data-in for
it. -/
def programOf (p : List (Instr × List Byte)) : Assembled :=
  { words := p.flatMap fun c => encode c.1, dataIn := p.flatMap fun c => c.2 }

/-! ### Runs -/

/-- What happens next in a run: the engine steps, or the host acts. Reset is no event of a run (log 19). -/
inductive RunEvent where
  | engineStep
  | hostActs (act : HostAct)
deriving DecidableEq, Repr

/-- A run so far. -/
structure Run where
  /-- The engine now. -/
  state      : State
  /-- Command words issued since the run began, first issued first. -/
  issued     : List W32
  /-- Data-in bytes supplied since the run began, first supplied first. -/
  supplied   : List Byte
  /-- Command words the engine has taken, first taken first. -/
  wordsTaken : List W32
  /-- Data-in bytes the engine has taken, first taken first. -/
  bytesTaken : List Byte
  /-- Data-out bytes emitted, first emitted first, whether or not the host has taken them. -/
  emitted    : List Byte
  /-- Data-out bytes the host has taken: what its acts have answered it, first taken first. -/
  handed     : List Byte
deriving DecidableEq, Repr

/-- A run begins: what is pending then counts as put in and emitted by the run (log 19). -/
def Run.start (s : State) : Run :=
  { state := s, issued := s.cmdPort, supplied := s.dataIn, wordsTaken := [], bytesTaken := [], emitted := s.dataOut,
    handed := [] }

/-- The front part of a stream that is gone from it. -/
def goneFrom {α : Type} (before after : List α) : List α := before.take (before.length - after.length)

/-- The run after the engine has stepped to `t`. -/
def Run.stepped (r : Run) (t : State) : Run :=
  { r with
    state      := t
    wordsTaken := r.wordsTaken ++ goneFrom r.state.cmdPort t.cmdPort
    bytesTaken := r.bytesTaken ++ goneFrom r.state.dataIn t.dataIn
    emitted    := r.emitted ++ t.dataOut.drop r.state.dataOut.length }

/-- The run after the host has acted. -/
def Run.acted (r : Run) (act : HostAct) : Run :=
  { r with
    state    := act.after r.state
    issued   := r.issued ++ act.words
    supplied := r.supplied ++ act.supplies
    handed   := r.handed ++ (act.run r.state).1.handed }

/-- One event of a run; the run has no step where the engine has none. -/
def Run.event (e : RunEvent) (r : Run) : Host.Outcome Run Fault Refusal :=
  match e with
  | .hostActs act => .next (r.acted act)
  | .engineStep   =>
    match step r.state with
    | .next t    => .next (r.stepped t)
    | .fault f   => .fault f
    | .refused f => .refused f

/-- Events, one after another. -/
def Run.events : List RunEvent → Run → Host.Outcome Run Fault Refusal
  | [], r      => .next r
  | e :: es, r =>
    match r.event e with
    | .next r'   => Run.events es r'
    | .fault f   => .fault f
    | .refused f => .refused f

/-! ### The end of a run -/

/-- The engine holds: it waits for `LEN` or for data-in bytes a pending command needs (R43, R67). -/
def holding (s : State) : Bool :=
  match step s with
  | .refused .holdingForLen  => true
  | .refused .holdingForData => true
  | _                        => false

/-- The run is one of program `p`: the host has issued all its words, and supplied bytes of its payloads, in order. -/
def Run.isOf (p : Assembled) (r : Run) : Bool := r.issued == p.words && r.supplied.isPrefixOf p.dataIn

/-- A run of program `p` that stops here has ended well (R204): every word of the program has been taken, and every byte the host
supplied; no fault is recorded, and the engine is not holding. -/
def endsWell (p : Assembled) (r : Run) : Bool :=
  r.isOf p && r.wordsTaken == p.words && r.bytesTaken == r.supplied && r.state.faultCode == .none && !holding r.state

/-- What is observed of a run (R204). -/
structure Observation where
  /-- Every data-out byte emitted, whether or not the host has taken it. -/
  dataOut : List Byte
  /-- The final `STATUS`. -/
  status  : W32
  /-- The transform-call history. -/
  calls   : List TransformCall
deriving DecidableEq, Repr

/-- The observation of a run. -/
def observe (r : Run) : Observation := { dataOut := r.emitted, status := r.state.status, calls := r.state.calls }

end Sys2Proof.Machine
end

