-- ==== Sys2Proof/Machine/System.lean ====
section
/-!
DEFINITION. Several engine instances (10_state.md R31, 60_exceptions.md R183): each has its own state and its own one
host (20_memory.md R56), and instances never interact.
-/

namespace Sys2Proof.Machine

/-- Instances by position, and which host drives which instance: pairs of an instance and its host. A position is no identifier
an instance could read (R183). Instances share nothing but the model's one sequence of free values: instances with equal draw
counters draw the same terms (DESIGN CHOICE, log 4). Each has parameters of its own (DESIGN CHOICE, log 20). -/
structure System where
  engines : List State
  hosts   : List (Nat × Nat)
deriving DecidableEq, Repr

/-- The host that drives instance `k`, once one has issued commands to it. -/
def System.hostOf (sys : System) (k : Nat) : Option Nat := sys.hosts.lookup k

/-- Host `host` may drive instance `k`: nobody else does (R56). -/
def System.admits (sys : System) (host k : Nat) : Bool :=
  match sys.hostOf k with
  | some other => decide (other = host)
  | none       => true

/-- Host `host` becomes the one host of instance `k`. -/
def System.attach (sys : System) (host k : Nat) : List (Nat × Nat) :=
  match sys.hostOf k with
  | some _ => sys.hosts
  | none   => (k, host) :: sys.hosts

/-- Host `host` acts on instance `k`, through the interfaces of R40 alone: so a computation moves between instances only as the
bytes of an EXPORT that a host supplies to an IMPORT (R183). A second host on one instance is refused (R56, I5), as is an
instance the system does not have. -/
def System.hostActs (host k : Nat) (act : HostAct) (sys : System) : Host.Outcome System Fault Refusal :=
  match sys.engines[k]? with
  | some s =>
    if sys.admits host k then .next { engines := sys.engines.set k (act.after s), hosts := sys.attach host k }
    else .refused .refusedHost
  | none => .refused .refusedHost

/-- What host `host` gets from an act on instance `k`; nothing where the act is refused. -/
def System.answer (host k : Nat) (act : HostAct) (sys : System) : Option HostAnswer :=
  match sys.engines[k]? with
  | some s => if sys.admits host k then some (act.run s).1 else none
  | none   => none

/-- The platform asserts reset on instance `k` (R190); the others keep their states, and every instance its host. -/
def System.resetAt (k : Nat) (sys : System) : System := { sys with engines := sys.engines.modify k assertReset }

/-- Instance `k` takes one step; the others keep their states (R31, R183). -/
def System.stepAt (k : Nat) (sys : System) : Host.Outcome System Fault Refusal :=
  match sys.engines[k]? with
  | some s =>
    match step s with
    | .next t    => .next { sys with engines := sys.engines.set k t }
    | .fault r   => .fault r
    | .refused r => .refused r
  | none => .refused .refusedHost

end Sys2Proof.Machine
end

