-- ==== Sys2Proof/Safety.lean ====
section
/-!
DEFINITION. The terms claims use: when a command is enabled (70_reset_and_hazards.md R203), the machine's invariant, when
two states carry the same message, commands run one after another, and the FIPS 180-4 digest as a function of the
message alone.
-/

namespace Sys2Proof.Machine

/-! ### Runs -/

/-- The engine's next command is enabled: it is not halted, waiting or holding (R203). -/
def enabled (s : State) : Bool :=
  match step s with
  | .next _ => true
  | _       => false

/-- The meanings of the commands, one after another (R54), until one has no next state. -/
def execAll : List Instr → State → Host.Outcome State Fault Refusal
  | [], s      => .next s
  | i :: is, s =>
    match exec i s with
    | .next t    => execAll is t
    | .fault r   => .fault r
    | .refused r => .refused r

/-- INIT of a variant. -/
def initOf : Variant → Instr
  | .sha256 => .init256
  | .sha224 => .init224

/-- FINAL of a variant. -/
def finalOf : Variant → Instr
  | .sha256 => .final256
  | .sha224 => .final224

/-- A message in chunks: one UPDATE for each. -/
def updatesOf (chunks : List (List Byte)) : List Instr := chunks.map fun d => .update d.length

/-- A command that goes on with a message: UPDATE or FINAL. -/
def goesOn : Instr → Bool
  | .init256      => false
  | .init224      => false
  | .update _     => true
  | .final256     => true
  | .final224     => true
  | .exportSnap   => false
  | .importSnap _ => false

/-- The host's duty on data-in: a command comes with exactly the bytes it takes (R44). -/
def dutiful (i : Instr) (payload : List Byte) : Bool := payload.length == payloadSize i

/-! ### The invariant -/

/-- What every state of the machine keeps: the wiped HashState is all zero (R24, R118); `FAULT_WORD` is 0 until a fault (R26,
R35); every recorded transform call passed at least one block, and exactly one from the buffer (R34, R94, R152). -/
structure Inv (s : State) : Prop where
  wiped_zero : s.life = .wiped →
    s.h = Vector.replicate 8 0#32 ∧ s.count = 0#64 ∧ s.buf = Vector.replicate 64 0#8
  no_fault_word : s.faultCode = .none → s.faultWord = 0#32
  calls_whole : ∀ c ∈ s.calls, 1 ≤ c.blocks.length ∧ (c.src = .buf → c.blocks.length = 1)

/-! ### The message a state carries -/

/-- Two states carry the same message: they agree on `H`, `COUNT`, the meaningful bytes of `BUF` (R22), `LIFE`, the fault
register and `T1`. Leftover bytes, streams, history and `SNAP_ENDIAN` may differ. -/
structure SameMessage (s t : State) : Prop where
  h         : s.h = t.h
  count     : s.count = t.count
  buf       : ∀ i : Fin 64, i.val < fill s → s.buf[i] = t.buf[i]
  life      : s.life = t.life
  faultCode : s.faultCode = t.faultCode
  transform : s.config.transform = t.config.transform

/-- The bytes absorbed and not yet transformed: `BUF[0 .. fill-1]` (R22). -/
def carried (s : State) : List Byte := s.buf.toList.take (fill s)

/-- All blocks passed to the transform since `s`, in call order: those of the events `t` has beyond the events of `s` (R101). -/
def blocksSince (s t : State) : List Block := (t.calls.drop s.calls.length).flatMap (·.blocks)

/-! ### The digest of a message -/

/-- The zero bytes FIPS padding puts between `0x80` and the length of an `n`-byte message: the fewest that make the whole a
multiple of the block size. -/
def zerosBetween (n : Nat) : Nat := (119 - n % 64) % 64

/-- The padded message: the message, `0x80`, zeros, and the bit length as 8 big-endian bytes (00_scope.md glossary
"Padding", R110, R113). -/
def paddedMessage (m : List Byte) : List Byte :=
  m ++ 0x80#8 :: List.replicate (zerosBetween m.length) 0#8 ++ be64 (BitVec.ofNat 64 (8 * m.length))

/-- The digest of a message under a transform and a variant, in one pass over the padded message. -/
def messageDigest (t1 : Hash → Block → Hash) (v : Variant) (m : List Byte) : List Byte :=
  let p := paddedMessage m
  (digestBytes (transform t1 (initialWords v) (blocksOf p (p.length / 64)))).take (digestSize v)

end Sys2Proof.Machine
end

