-- ==== Sys2Proof/Certificates/Slice0/Obligations.lean ====
section
/-!
DEFINITION. The statements about the engine that the provers settle. Each docstring names the rules of spec/ it formalises.
An engine that is not halted is one with `s.faultCode = .none`; a meaning is asked about the state whose command words `step`
has taken.
-/

open Sys2Proof Sys2Proof.Machine

/-! ### Encoding -/

/-- R64: decoding the words of a well-formed instruction gives it back, whatever words follow. -/
def Obligations.DecodeOfEncode : Prop :=
  ∀ (i : Instr) (rest : List W32), i.wellFormed = true → decode (encode i ++ rest) = .ok (i, rest)

/-- R64, R66: a word sequence decodes to an instruction only if it begins with exactly that instruction's words; so no two
word sequences stand for one instruction, and no other word is accepted. -/
def Obligations.DecodeOnlyEncodings : Prop :=
  ∀ (ws rest : List W32) (i : Instr), decode ws = .ok (i, rest) → i.wellFormed = true ∧ ws = encode i ++ rest

/-- R64, 95_test_vectors.md V10: words written out from the table, and what they decode to. -/
def Obligations.TableWordsDecode : Prop :=
  decode [0x00000000#32] = .ok (.init256, []) ∧
  decode [0x00000008#32] = .ok (.init224, []) ∧
  decode [0x00000001#32, 0x00000003#32] = .ok (.update 3, []) ∧
  decode [0x00000002#32] = .ok (.final256, []) ∧
  decode [0x0000000A#32] = .ok (.final224, []) ∧
  decode [0x00000003#32] = .ok (.exportSnap, []) ∧
  decode [0x00000004#32, 0x00000068#32] = .ok (.importSnap 104, [])

/-- R66, R64: a word 0 is illegal exactly by one of the three clauses, and exactly the seven words of the table are legal. -/
def Obligations.IllegalWordsAreTheOthers : Prop :=
  ∀ w0 : W32,
    ((∃ why, decodeHead w0 = .error why) ↔
      (w0.toNat / 16 ≠ 0 ∨ w0.toNat % 8 = 5 ∨ w0.toNat % 8 = 6 ∨ w0.toNat % 8 = 7 ∨
        (w0.toNat / 8 % 2 = 1 ∧ (w0.toNat % 8 = 1 ∨ w0.toNat % 8 = 3 ∨ w0.toNat % 8 = 4)))) ∧
    ((∃ hd, decodeHead w0 = .ok hd) ↔
      w0 ∈ [0x00000000#32, 0x00000008#32, 0x00000001#32, 0x00000002#32, 0x0000000A#32, 0x00000003#32, 0x00000004#32])

/-! ### The step -/

/-- R54, R67: when the words at the head of the port are those of a well-formed instruction, a step of an engine that is not
halted takes them and is the meaning of that instruction on the state without them. -/
def Obligations.StepRunsTheDecodedCommand : Prop :=
  ∀ (s : State) (i : Instr) (rest : List W32), s.faultCode = .none → i.wellFormed = true →
    s.cmdPort = encode i ++ rest →
    step s = exec i { s with cmdPort := rest, cmdIndex := s.cmdIndex + (encode i).length }

/-- R173: an illegal word 0 raises ILLEGAL_CMD; the engine takes that word alone and records it. -/
def Obligations.IllegalWordFaults : Prop :=
  ∀ (s : State) (w0 : W32) (rest : List W32), s.faultCode = .none → s.cmdPort = w0 :: rest →
    (w0.toNat / 16 ≠ 0 ∨ w0.toNat % 8 = 5 ∨ w0.toNat % 8 = 6 ∨ w0.toNat % 8 = 7 ∨
      (w0.toNat / 8 % 2 = 1 ∧ (w0.toNat % 8 = 1 ∨ w0.toNat % 8 = 3 ∨ w0.toNat % 8 = 4))) →
    step s = .next { s with
      cmdPort := rest, cmdIndex := s.cmdIndex + 1, faultCode := .illegalCmd, faultWord := w0 }

/-- R43, R53, R67: the engine has no step while it waits for a command word, for `LEN`, or for the data-in bytes of an UPDATE of
a LIVE state or of an IMPORT; supplying the bytes lifts the hold. That a hold is a refusal is the model's choice (log 5). -/
def Obligations.EngineHoldsUntilSupplied : Prop :=
  (∀ s : State, s.faultCode = .none → s.cmdPort = [] → step s = .refused .waitingForCommand) ∧
  (∀ s : State, s.faultCode = .none → (s.cmdPort = [0x00000001#32] ∨ s.cmdPort = [0x00000004#32]) →
    step s = .refused .holdingForLen) ∧
  (∀ (s : State) (w1 : W32) (rest : List W32) (more : List Byte), s.faultCode = .none → s.life = .live →
    s.cmdPort = 0x00000001#32 :: w1 :: rest → s.dataIn.length < w1.toNat →
    step s = .refused .holdingForData ∧
    (w1.toNat ≤ s.dataIn.length + more.length → ∃ t, step (supply more s) = .next t ∧ t.faultCode = .none)) ∧
  (∀ (s : State) (rest : List W32) (more : List Byte), s.faultCode = .none →
    s.cmdPort = 0x00000004#32 :: 0x00000068#32 :: rest → s.dataIn.length < 104 →
    step s = .refused .holdingForData ∧
    (104 ≤ s.dataIn.length + more.length → ∃ t, step (supply more s) = .next t ∧ t.faultCode = .none))

/-- R170: with the data-in bytes it takes, every command of an engine that is not halted has a next state. -/
def Obligations.EveryCommandHasANextState : Prop :=
  ∀ (i : Instr) (s : State), s.faultCode = .none → payloadSize i ≤ s.dataIn.length → ∃ t, exec i s = .next t

/-! ### INIT -/

/-- R80, R83, R84: INIT writes the variant's initial words, COUNT and LIFE, whatever LIFE was, and nothing else: BUF, the streams,
the history and the fault registers stay. It raises no fault. -/
def Obligations.InitStartsAMessage : Prop :=
  ∀ s : State, s.faultCode = .none →
    exec .init256 s = .next { s with
      h := #v[0x6a09e667#32, 0xbb67ae85#32, 0x3c6ef372#32, 0xa54ff53a#32,
              0x510e527f#32, 0x9b05688c#32, 0x1f83d9ab#32, 0x5be0cd19#32],
      count := 0#64, life := .live } ∧
    exec .init224 s = .next { s with
      h := #v[0xc1059ed8#32, 0x367cd507#32, 0x3070dd17#32, 0xf70e5939#32,
              0xffc00b31#32, 0x68581511#32, 0x64f98fa7#32, 0xbefa4fa4#32],
      count := 0#64, life := .live }

/-! ### UPDATE -/

/-- R90, R91, R97, R101: UPDATE on a LIVE state with its payload there: COUNT grows by LEN modulo 2^64; the carried bytes and the
payload form one sequence, whose whole blocks are folded into H and whose remainder is carried on; the payload leaves data-in; nothing
else changes but the history and the model's draw counter. -/
def Obligations.UpdateAbsorbsItsPayload : Prop :=
  ∀ (s : State) (len : Nat), s.faultCode = .none → s.life = .live → len ≤ s.dataIn.length →
    ∃ t, exec (.update len) s = .next t ∧
      t.count.toNat = (s.count.toNat + len) % 2 ^ 64 ∧
      t.h = transform (t1Of s.config.transform) s.h
        (blocksOf (carried s ++ s.dataIn.take len) ((fill s + len) / 64)) ∧
      carried t = (carried s ++ s.dataIn.take len).drop (64 * ((fill s + len) / 64)) ∧
      t.dataIn = s.dataIn.drop len ∧
      t.life = .live ∧ t.faultCode = .none ∧ t.faultWord = s.faultWord ∧ t.cmdPort = s.cmdPort ∧
      t.dataOut = s.dataOut ∧ t.cmdIndex = s.cmdIndex ∧ t.config = s.config

/-- R92: the fast path appends the payload at offset `partial` and makes no transform call. -/
def Obligations.UpdateFastPath : Prop :=
  ∀ (s : State) (len : Nat), s.faultCode = .none → s.life = .live → len ≤ s.dataIn.length → fill s + len < 64 →
    ∃ t, exec (.update len) s = .next t ∧ t.h = s.h ∧ t.calls = s.calls ∧ fill t = fill s + len ∧
      ∀ i : Fin 64,
        (i.val < fill s → t.buf[i] = s.buf[i]) ∧
        (fill s ≤ i.val → i.val < fill s + len → t.buf[i] = byteAt s.dataIn (i.val - fill s))

/-- R93, R94, R95, R96: the slow path fills the buffer from `partial` on with the first `f = 64 - partial` bytes, calls the transform
once on it, calls it once more on the `q` whole blocks that follow in the payload if there are any, and keeps the last `e` bytes at
offset 0. -/
def Obligations.UpdateSlowPath : Prop :=
  ∀ (s : State) (len : Nat), s.faultCode = .none → s.life = .live → len ≤ s.dataIn.length → 64 ≤ fill s + len →
    let f := 64 - fill s
    let q := (len - f) / 64
    let e := (len - f) % 64
    let filled : Block := Vector.ofFn fun i : Fin 64 =>
      if i.val < fill s then s.buf[i] else byteAt s.dataIn (i.val - fill s)
    let direct : List Block := (List.range q).map fun k => blockAt s.dataIn (f + 64 * k)
    ∃ t, exec (.update len) s = .next t ∧
      t.calls = s.calls ++ { src := .buf, blocks := [filled] } ::
        (if q = 0 then [] else [{ src := .data, blocks := direct }]) ∧
      t.h = direct.foldl (t1Of s.config.transform) (t1Of s.config.transform s.h filled) ∧
      fill t = e ∧
      ∀ i : Fin 64, i.val < e → t.buf[i] = byteAt s.dataIn (f + 64 * q + i.val)

/-- R98: an UPDATE of no bytes on a LIVE state keeps every register, and on a state that is not LIVE it faults NOT_LIVE. -/
def Obligations.EmptyUpdateIsANoOp : Prop :=
  ∀ s : State, s.faultCode = .none →
    (s.life = .live → exec (.update 0) s = .next s) ∧
    (s.life ≠ .live → exec (.update 0) s = .next { s with faultCode := .notLive, faultWord := 0x00000001#32 })

/-- R23 (which the spec derives from R21 and R91): the fill level is below the block size, and grows modulo 64 with every byte, also where COUNT wraps. -/
def Obligations.FillLevelInvariant : Prop :=
  (∀ s : State, fill s < 64) ∧
  (∀ (c : W64) (n : Nat), (c.toNat + n) % 2 ^ 64 % 64 = (c.toNat % 64 + n) % 64) ∧
  (∀ (s t : State) (len : Nat), s.life = .live → exec (.update len) s = .next t → fill t = (fill s + len) % 64)

/-! ### FINAL -/

/-- R112, R113: the padding length for every index, and what the padding is; after it the fill level is 56. -/
def Obligations.PaddingLength : Prop :=
  (∀ index : Nat, index < 56 → padLen index = 56 - index ∧ 1 ≤ padLen index ∧ padLen index ≤ 56) ∧
  (∀ index : Nat, 56 ≤ index → index < 64 → padLen index = 120 - index ∧ 57 ≤ padLen index ∧ padLen index ≤ 64) ∧
  (∀ n : Nat, 1 ≤ n → (padBytes n).length = n ∧ byteAt (padBytes n) 0 = 0x80#8 ∧
    ∀ k, 1 ≤ k → byteAt (padBytes n) k = 0x00#8) ∧
  (∀ s : State, fill (absorb (padBytes (padLen (fill s))) s) = 56)

/-- R110, R111, R114: the bit length is COUNT * 8 modulo 2^64, which is COUNT shifted left by 3, read with the index before any byte is
absorbed; then FINAL absorbs the padding, then the big-endian bit length. -/
def Obligations.BitLengthIsReadBeforeThePadding : Prop :=
  (∀ c : W64, (bitLength c).toNat = c.toNat * 8 % 2 ^ 64 ∧ bitLength c = c <<< 3) ∧
  (∀ s : State, absorbSuffix s = absorb (be64 (s.count <<< 3)) (absorb (padBytes (padLen (s.count.toNat % 64))) s))

/-- R115 (which the spec derives from R112, R114 and R100): the transform calls FINAL makes, and their blocks: one call if `index < 56`, two if not; each from the buffer. After them
the fill level is 0. -/
def Obligations.FinalSuffixCalls : Prop :=
  ∀ s : State, s.faultCode = .none → s.life = .live →
    let suffixLen := be64 (s.count <<< 3)
    fill (absorbSuffix s) = 0 ∧
    ∀ i : Instr, i = .final256 ∨ i = .final224 →
      ∃ t, exec i s = .next t ∧
        (fill s < 56 → ∃ b : Block,
          t.calls = s.calls ++ [{ src := .buf, blocks := [b] }] ∧
          b.toList = carried s ++ 0x80#8 :: List.replicate (55 - fill s) 0x00#8 ++ suffixLen) ∧
        (56 ≤ fill s → ∃ b c : Block,
          t.calls = s.calls ++ [{ src := .buf, blocks := [b] }, { src := .buf, blocks := [c] }] ∧
          b.toList = carried s ++ 0x80#8 :: List.replicate (63 - fill s) 0x00#8 ∧
          c.toList = List.replicate 56 0x00#8 ++ suffixLen)

/-- R116, R117, R118, R120, R121, R122: FINAL on a LIVE state folds the carried bytes, the padding and the bit length into H, emits the
first 32 or 28 bytes of the eight words, and wipes. The command's own variant alone sets the output length. The frame: data-in, the
command port, the fault registers and the configuration stay. -/
def Obligations.FinalEmitsTheDigestAndWipes : Prop :=
  ∀ s : State, s.faultCode = .none → s.life = .live →
    let m := carried s ++ padBytes (padLen (fill s)) ++ be64 (bitLength s.count)
    let d := (transform (t1Of s.config.transform) s.h (blocksOf m (m.length / 64))).toList.flatMap be32
    m.length % 64 = 0 ∧ d.length = 32 ∧
    (∃ t, exec .final256 s = .next t ∧ t.dataOut = s.dataOut ++ d ∧
      t.h = Vector.replicate 8 0#32 ∧ t.count = 0#64 ∧ t.buf = Vector.replicate 64 0#8 ∧ t.life = .wiped ∧
      t.dataIn = s.dataIn ∧ t.cmdPort = s.cmdPort ∧ t.cmdIndex = s.cmdIndex ∧
      t.faultCode = .none ∧ t.faultWord = s.faultWord ∧ t.config = s.config) ∧
    (∃ t, exec .final224 s = .next t ∧ t.dataOut = s.dataOut ++ d.take 28 ∧
      t.h = Vector.replicate 8 0#32 ∧ t.count = 0#64 ∧ t.buf = Vector.replicate 64 0#8 ∧ t.life = .wiped ∧
      t.dataIn = s.dataIn ∧ t.cmdPort = s.cmdPort ∧ t.cmdIndex = s.cmdIndex ∧
      t.faultCode = .none ∧ t.faultWord = s.faultWord ∧ t.config = s.config)

/-- R118, R174: every FINAL that does not fault leaves the whole HashState zero; a FINAL that faults leaves it as it was, and the engine
halted (that a halted engine answers `Fault.halted` is the model's choice, log 6). -/
def Obligations.FinalWipesOrFaults : Prop :=
  ∀ (s : State) (i : Instr), i = .final256 ∨ i = .final224 → s.faultCode = .none →
    ∃ t, exec i s = .next t ∧
      (t.faultCode = .none →
        t.h = Vector.replicate 8 0#32 ∧ t.count = 0#64 ∧ t.buf = Vector.replicate 64 0#8 ∧ t.life = .wiped) ∧
      (t.faultCode ≠ .none →
        t.h = s.h ∧ t.count = s.count ∧ t.buf = s.buf ∧ t.life = s.life ∧ (s.life = .wiped ∨ s.life = .uninit) ∧
        step t = .fault (.halted t.faultCode))

/-- R45, R46: the big-endian bytes of a word, the most significant first, stand for the word. -/
def Obligations.BigEndianBytes : Prop :=
  (∀ w : W32, (be32 w).length = 4 ∧ natOfBytesBE (be32 w) 0 = w.toNat) ∧
  (∀ v : W64, (be64 v).length = 8 ∧ natOfBytesBE (be64 v) 0 = v.toNat) ∧
  be32 0x01020304#32 = [0x01#8, 0x02#8, 0x03#8, 0x04#8]

/-! ### The message and its digest -/

/-- R101 (which the spec derives from R90 and R151): from INIT on, whatever the split of the message into UPDATEs, the blocks passed to the transform in call order are the whole
blocks of the message, the carried bytes are the rest of it, COUNT is its length modulo 2^64, and H is the fold of `T1` over the blocks
from the initial words. -/
def Obligations.AbsorptionIgnoresChunking : Prop :=
  ∀ (v : Variant) (s : State) (chunks : List (List Byte)) (rest : List Byte),
    s.faultCode = .none → s.dataIn = chunks.flatten ++ rest →
    let m := chunks.flatten
    let n := m.length / 64
    ∃ t, execAll (initOf v :: updatesOf chunks) s = .next t ∧
      blocksSince s t = (List.range n).map (fun k => blockAt m (64 * k)) ∧
      carried t = m.drop (64 * n) ∧
      t.count.toNat = m.length % 2 ^ 64 ∧
      t.h = ((List.range n).map (fun k => blockAt m (64 * k))).foldl (t1Of s.config.transform) (initialWords v) ∧
      t.dataIn = rest ∧ t.dataOut = s.dataOut ∧ t.life = .live ∧ t.faultCode = .none

/-- R101, R116, R119, R123: INIT, the message in any chunks, FINAL of the same variant: the engine emits the FIPS 180-4 digest of the
message, a function of the message and the transform alone, and is wiped. -/
def Obligations.DigestOfTheMessage : Prop :=
  ∀ (v : Variant) (s : State) (chunks : List (List Byte)) (rest : List Byte),
    s.faultCode = .none → s.dataIn = chunks.flatten ++ rest →
    ∃ t, execAll (initOf v :: (updatesOf chunks ++ [finalOf v])) s = .next t ∧
      t.dataOut = s.dataOut ++ messageDigest (t1Of s.config.transform) v chunks.flatten ∧
      t.dataIn = rest ∧ t.life = .wiped ∧ t.faultCode = .none ∧
      blocksSince s t = blocksOf (paddedMessage chunks.flatten) ((paddedMessage chunks.flatten).length / 64) ∧
      (paddedMessage chunks.flatten).length % 64 = 0

/-- R119, R24: no output of UPDATE and FINAL depends on a leftover byte of BUF: two states that carry the same message, given the same
data-in, run the same commands to the same outputs. -/
def Obligations.LeftoverBytesNeverReachADigest : Prop :=
  ∀ (is : List Instr) (s s' t : State), SameMessage s s' → s.dataIn = s'.dataIn → is.all goesOn = true →
    execAll is s = .next t →
    ∃ t' out, execAll is s' = .next t' ∧ SameMessage t t' ∧ t.dataIn = t'.dataIn ∧
      t.dataOut = s.dataOut ++ out ∧ t'.dataOut = s'.dataOut ++ out

/-! ### EXPORT and IMPORT -/

/-- R48: the layout of a snapshot, in both byte orders, and the default order. -/
def Obligations.SnapshotLayout : Prop :=
  (∀ (e : Endian) (h : Hash) (c : W64) (b : Block), (snap e h c b).length = 104 ∧ ∀ j : Fin 64, byteAt (snap e h c b) (40 + j.val) = b[j]) ∧
  (∀ (h : Hash) (c : W64) (b : Block) (i : Fin 8),
    ((snap .little h c b).drop (4 * i.val)).take 4 =
      [h[i].extractLsb' 0 8, h[i].extractLsb' 8 8, h[i].extractLsb' 16 8, h[i].extractLsb' 24 8] ∧
    ((snap .big h c b).drop (4 * i.val)).take 4 = be32 h[i]) ∧
  (∀ (h : Hash) (c : W64) (b : Block),
    ((snap .little h c b).drop 32).take 8 =
      [c.extractLsb' 0 8, c.extractLsb' 8 8, c.extractLsb' 16 8, c.extractLsb' 24 8,
       c.extractLsb' 32 8, c.extractLsb' 40 8, c.extractLsb' 48 8, c.extractLsb' 56 8] ∧
    ((snap .big h c b).drop 32).take 8 = be64 c) ∧
  State.reset.config.snapEndian = .little

/-- R49 (which the spec derives from R48): reading a snapshot back and making it again are inverse to each other. -/
def Obligations.SnapAndUnsnapAreInverse : Prop :=
  (∀ (e : Endian) (h : Hash) (c : W64) (b : Block),
    unsnapH e (snap e h c b) = h ∧ unsnapCount e (snap e h c b) = c ∧ unsnapBuf (snap e h c b) = b) ∧
  (∀ (e : Endian) (d : List Byte), d.length = 104 → snap e (unsnapH e d) (unsnapCount e d) (unsnapBuf d) = d) ∧
  (∀ (e : Endian) (d : List Byte), d.length = 104 →
    (∀ i : Fin 8, snapWord32 e (unsnapH e d)[i] = (d.drop (4 * i.val)).take 4) ∧
    snapWord64 e (unsnapCount e d) = (d.drop 32).take 8 ∧
    ∀ j : Fin 64, (unsnapBuf d)[j] = byteAt d (40 + j.val))

/-- R130, R131, R135: EXPORT of a state that is not UNINIT emits 104 bytes: up to the fill level exactly the snapshot of the HashState, and
while WIPED exactly the snapshot throughout. It writes no register and makes no call; of the model's own it advances the draw
counter. -/
def Obligations.ExportEmitsTheSnapshot : Prop :=
  ∀ s : State, s.faultCode = .none → s.life ≠ .uninit →
    ∃ (img : List Byte) (n : Nat),
      exec .exportSnap s = .next { s with dataOut := s.dataOut ++ img, draws := n } ∧
      img.length = 104 ∧
      img.take (40 + fill s) = (snap s.config.snapEndian s.h s.count s.buf).take (40 + fill s) ∧
      (s.life = .wiped → img = snap s.config.snapEndian s.h s.count s.buf)

/-- R175: EXPORT faults while UNINIT, with no output; while WIPED it does not fault and emits the all-zero image (in a state that keeps
the machine's invariant). -/
def Obligations.ExportOfAnUninitializedStateFaults : Prop :=
  (∀ s : State, s.faultCode = .none → s.life = .uninit →
    exec .exportSnap s = .next { s with faultCode := .uninitRead, faultWord := 0x00000003#32 }) ∧
  (∀ s : State, s.faultCode = .none → s.life = .wiped → Inv s →
    ∃ t, exec .exportSnap s = .next t ∧ t.faultCode = .none ∧ t.dataOut = s.dataOut ++ List.replicate 104 0x00#8)

/-- R133, R176: IMPORT of any other length than 104 raises SNAPSHOT_SIZE before a data-in byte is taken, and changes nothing else. -/
def Obligations.ImportChecksTheSize : Prop :=
  ∀ (s : State) (len : Nat), s.faultCode = .none → len ≠ 104 →
    exec (.importSnap len) s = .next { s with faultCode := .snapshotSize, faultWord := 0x00000004#32 }

/-- R132, R134: IMPORT of 104 bytes takes any content, in any LIFE: the HashState becomes the one whose snapshot those bytes are, LIFE
becomes LIVE, and nothing else changes. -/
def Obligations.ImportReplacesTheHashState : Prop :=
  ∀ s : State, s.faultCode = .none → 104 ≤ s.dataIn.length →
    ∃ (h : Hash) (c : W64) (b : Block),
      exec (.importSnap 104) s = .next { s with
        h := h, count := c, buf := b, life := .live, dataIn := s.dataIn.drop 104 } ∧
      snap s.config.snapEndian h c b = s.dataIn.take 104

/-- R137 (which the spec derives from R49, R131 and R119): an engine `b`, in any LIFE, that imports what a LIVE engine `a` exported holds the same message, and from then on gives the same
data-out bytes as `a` without the round trip, for any sequence of UPDATE and FINAL commands on the same data-in. That `b` has the
parameters of `a` (`b.config = a.config`) is a premise R137 does not name: the spec leaves open whether two instances may differ in
`SNAP_ENDIAN` or `T1`, and the model lets them (DESIGN CHOICE, log 20). -/
def Obligations.SuspendAndResume : Prop :=
  ∀ (a b : State), a.faultCode = .none → a.life = .live → b.faultCode = .none → b.config = a.config →
    ∃ (a' : State) (img : List Byte), exec .exportSnap a = .next a' ∧ a'.dataOut = a.dataOut ++ img ∧
      (b.dataIn = img ++ a.dataIn →
        ∃ b', exec (.importSnap 104) b = .next b' ∧
          b'.h = a.h ∧ b'.count = a.count ∧ carried b' = carried a ∧ b'.life = .live ∧
          ∀ (is : List Instr) (t : State), is.all goesOn = true → execAll is a = .next t →
            ∃ t' out, execAll is b' = .next t' ∧
              t.dataOut = a.dataOut ++ out ∧ t'.dataOut = b'.dataOut ++ out)

/-- R52: INIT twice leaves what it leaves once; two EXPORTs in a row emit the same bytes at every position but those of the leftover
bytes. -/
def Obligations.RepeatedInitAndExport : Prop :=
  (∀ (s : State) (v : Variant), s.faultCode = .none →
    ∃ t, execAll [initOf v] s = .next t ∧ execAll [initOf v, initOf v] s = .next t) ∧
  (∀ s : State, s.faultCode = .none → s.life ≠ .uninit →
    ∃ (t : State) (x y : List Byte), execAll [.exportSnap, .exportSnap] s = .next t ∧
      t.dataOut = s.dataOut ++ x ++ y ∧ x.length = 104 ∧ y.length = 104 ∧
      (∀ k, k < 40 + fill s → byteAt x k = byteAt y k) ∧ (s.life = .wiped → x = y))

/-! ### Faults -/

/-- R174: UPDATE (its two words taken, no payload byte) and FINAL fault NOT_LIVE when LIFE is UNINIT or WIPED. -/
def Obligations.NotLiveFaults : Prop :=
  ∀ (s : State) (rest : List W32), s.faultCode = .none → (s.life = .uninit ∨ s.life = .wiped) →
    (∀ w1 : W32, s.cmdPort = 0x00000001#32 :: w1 :: rest →
      step s = .next { s with cmdPort := rest, cmdIndex := s.cmdIndex + 2,
                              faultCode := .notLive, faultWord := 0x00000001#32 }) ∧
    (s.cmdPort = 0x00000002#32 :: rest →
      step s = .next { s with cmdPort := rest, cmdIndex := s.cmdIndex + 1,
                              faultCode := .notLive, faultWord := 0x00000002#32 }) ∧
    (s.cmdPort = 0x0000000A#32 :: rest →
      step s = .next { s with cmdPort := rest, cmdIndex := s.cmdIndex + 1,
                              faultCode := .notLive, faultWord := 0x0000000A#32 })

/-- R172: a command that raises a fault has no other effect than taking its own words and recording the code and its word 0; the engine is
then halted, has no step, and a run that stops there has not ended well. -/
def Obligations.FaultEntryChangesNothingElse : Prop :=
  ∀ s t : State, step s = .next t → t.faultCode ≠ .none →
    ∃ (w0 : W32) (n : Nat), s.cmdPort.head? = some w0 ∧ n = commandLength w0 ∧
      t = { s with cmdPort := s.cmdPort.drop n, cmdIndex := s.cmdIndex + n,
                   faultCode := t.faultCode, faultWord := w0 } ∧
      (∀ u, step t ≠ .next u) ∧ ∀ (p : Assembled) (r : Run), r.state = t → endsWell p r = false

/-- R191: reset is the only way out of the halted state: no step, no command (INIT and IMPORT among them) and no act of the host changes the
fault registers; reset clears them. -/
def Obligations.OnlyResetLeavesTheHalt : Prop :=
  ∀ s : State, s.faultCode ≠ .none →
    (∀ t, step s ≠ .next t) ∧ (∀ (i : Instr) (t : State), exec i s ≠ .next t) ∧
    (∀ act : HostAct, (act.after s).faultCode = s.faultCode ∧ (act.after s).faultWord = s.faultWord) ∧
    (assertReset s).faultCode = .none ∧ (assertReset s).faultWord = 0#32 ∧ (assertReset s).life = .uninit

/-- R27: the fields of STATUS, its reserved bits, and that sampling it or FAULT_WORD has no side effect and exposes no HashState
register. -/
def Obligations.StatusLayout : Prop :=
  (∀ s : State,
    (s.status.extractLsb' 0 2).toNat = (match s.life with | .uninit => 0 | .live => 1 | .wiped => 2) ∧
    s.status.extractLsb' 2 2 = 0#2 ∧
    (s.status.extractLsb' 4 4).toNat = (match s.faultCode with
      | .none => 0 | .illegalCmd => 1 | .notLive => 2 | .uninitRead => 3 | .snapshotSize => 4) ∧
    (s.status.extractLsb' 8 1 = 1#1 ↔ s.faultCode ≠ .none) ∧
    s.status.extractLsb' 9 23 = 0#23) ∧
  (∀ s : State, sampleStatus s = (s.status, s) ∧ sampleFaultWord s = (s.faultWord, s)) ∧
  (∀ (s : State) (h : Hash) (c : W64) (b : Block),
    ({ s with h := h, count := c, buf := b } : State).status = s.status ∧
    ({ s with h := h, count := c, buf := b } : State).faultWord = s.faultWord)

/-! ### Whole-machine rules -/

/-- R42: only FINAL and EXPORT write to the data-out stream, by appending; no other command and no fault does. -/
def Obligations.OnlyFinalAndExportWriteDataOut : Prop :=
  ∀ (i : Instr) (s t : State), exec i s = .next t →
    (∃ d, t.dataOut = s.dataOut ++ d) ∧
    (t.dataOut ≠ s.dataOut → (i = .final256 ∨ i = .final224 ∨ i = .exportSnap) ∧ t.faultCode = .none)

/-- R68: how many data-in bytes each command takes and how many data-out bytes it emits when it does not fault; a command that faults
takes and emits none, and an IMPORT of another length than 104 faults. -/
def Obligations.DataFraming : Prop :=
  ∀ (i : Instr) (s t : State), exec i s = .next t →
    (t.faultCode ≠ .none → t.dataIn = s.dataIn ∧ t.dataOut = s.dataOut) ∧
    (∀ len, i = .importSnap len → len ≠ 104 → t.faultCode ≠ .none) ∧
    (t.faultCode = .none → ∃ taken emitted : List Byte,
      s.dataIn = taken ++ t.dataIn ∧ t.dataOut = s.dataOut ++ emitted ∧
      taken.length = (match i with | .update len => len | .importSnap _ => 104 | _ => 0) ∧
      emitted.length = (match i with | .final256 => 32 | .final224 => 28 | .exportSnap => 104 | _ => 0))

/-- R32: which command writes which register. Only INIT, UPDATE, FINAL and IMPORT write H and COUNT; INIT does not write BUF; UPDATE and
EXPORT do not write LIFE; FAULT_CODE and FAULT_WORD change only by a fault. -/
def Obligations.RegisterWriters : Prop :=
  ∀ (i : Instr) (s t : State), exec i s = .next t →
    (i = .exportSnap → t.h = s.h ∧ t.count = s.count ∧ t.buf = s.buf ∧ t.life = s.life) ∧
    (i = .init256 ∨ i = .init224 → t.buf = s.buf) ∧
    ((∃ len, i = .update len) → t.life = s.life) ∧
    (t.faultCode = s.faultCode → t.faultWord = s.faultWord) ∧
    (t.faultCode ≠ s.faultCode → t.h = s.h ∧ t.count = s.count ∧ t.buf = s.buf ∧ t.life = s.life)

/-- R25, R192: how LIFE changes in a step: LIVE is entered by INIT and IMPORT alone, WIPED by FINAL alone and only from LIVE, and UNINIT is
never entered. -/
def Obligations.LifecycleTransitions : Prop :=
  ∀ s t : State, step s = .next t → t.life ≠ s.life →
    ∃ (i : Instr) (rest : List W32), decode s.cmdPort = .ok (i, rest) ∧
      ((t.life = .live ∧ (i = .init256 ∨ i = .init224 ∨ i = .importSnap 104)) ∨
       (t.life = .wiped ∧ s.life = .live ∧ (i = .final256 ∨ i = .final224)))

/-- R201, R100 (which the spec derives from R92 to R96 and R112): the transform calls each command makes: their number, sources and blocks. -/
def Obligations.TransformCallCounts : Prop :=
  ∀ (i : Instr) (s t : State), exec i s = .next t →
    ∃ new : List TransformCall, t.calls = s.calls ++ new ∧
      (t.faultCode ≠ .none → new = []) ∧
      (i = .init256 ∨ i = .init224 ∨ i = .exportSnap ∨ (∃ len, i = .importSnap len) → new = []) ∧
      (∀ len, i = .update len → t.faultCode = .none →
        (fill s + len < 64 → new = []) ∧
        (64 ≤ fill s + len → fill s + len < 128 → new.map (fun c => (c.src, c.blocks.length)) = [(.buf, 1)]) ∧
        (128 ≤ fill s + len →
          new.map (fun c => (c.src, c.blocks.length)) = [(.buf, 1), (.data, (fill s + len - 64) / 64)]) ∧
        (new.flatMap (·.blocks)).length = (fill s + len) / 64) ∧
      (i = .final256 ∨ i = .final224 → t.faultCode = .none →
        new.map (fun c => (c.src, c.blocks.length)) = if fill s < 56 then [(.buf, 1)] else [(.buf, 1), (.buf, 1)])

/-- R29, R33, R41, R42, R193: a step only takes from the front of the command port and of data-in, only adds to data-out and to the history,
counts the words it takes, and changes no parameter. The last clause but one, that the count of draws does not fall, is about the model's
own counter and is no rule of the spec (DESIGN CHOICE, log 4). -/
def Obligations.StepOnlyExtendsTheHistory : Prop :=
  ∀ s t : State, step s = .next t →
    ∃ (words : List W32) (taken emitted : List Byte) (new : List TransformCall),
      s.cmdPort = words ++ t.cmdPort ∧ (words.length = 1 ∨ words.length = 2) ∧
      t.cmdIndex = s.cmdIndex + words.length ∧
      s.dataIn = taken ++ t.dataIn ∧ t.dataOut = s.dataOut ++ emitted ∧ t.calls = s.calls ++ new ∧
      s.draws ≤ t.draws ∧ t.config = s.config

/-! ### Reset and the invariant -/

/-- R35, R190: what reset leaves where the spec gives a value, at power-on and when the platform asserts it; the engine then waits for its
first command word. -/
def Obligations.ResetState : Prop :=
  ∀ s : State, s = State.reset ∨ (∃ before, s = assertReset before) →
    s.life = .uninit ∧ s.faultCode = .none ∧ s.faultWord = 0#32 ∧ s.status = 0x00000000#32 ∧
    s.calls = [] ∧ s.cmdPort = [] ∧ s.dataIn = [] ∧ s.dataOut = [] ∧ s.cmdIndex = 0 ∧
    step s = .refused .waitingForCommand

/-- R35: what H, COUNT and BUF hold while UNINIT is unobservable: of two UNINIT states that differ there alone, a step gives the same
observation, and once LIFE is no longer UNINIT the same message. -/
def Obligations.ResetContentsAreUnobservable : Prop :=
  ∀ (s s' t : State), s.life = .uninit →
    s' = { s with h := s'.h, count := s'.count, buf := s'.buf } → step s = .next t →
    ∃ t', step s' = .next t' ∧ t.dataOut = t'.dataOut ∧ t.status = t'.status ∧ t.calls = t'.calls ∧ t.faultWord = t'.faultWord ∧ t.dataIn = t'.dataIn ∧
      t.cmdPort = t'.cmdPort ∧ (t.life ≠ .uninit → SameMessage t t')

/-- The invariant holds after reset. -/
def Obligations.ResetKeepsTheInvariant : Prop := Inv State.reset

/-- R24, R26, R34, R118: every step keeps the invariant: the WIPED HashState is all zero, FAULT_WORD is 0 until a fault, and every recorded
transform call passed whole blocks, exactly one from the buffer. -/
def Obligations.StepKeepsTheInvariant : Prop :=
  ∀ s t : State, Inv s → step s = .next t → Inv t

/-! ### The transform -/

/-- R151, R152: the multi-block transform on `q + 1` blocks is `T1` on the last after the transform on the first `q`; on no block it is the
identity. -/
def Obligations.TransformIsTheFoldOfT1 : Prop :=
  ∀ (t1 : Hash → Block → Hash) (h : Hash) (d : List Byte) (q : Nat),
    transform t1 h (blocksOf d 0) = h ∧
    transform t1 h (blocksOf d (q + 1)) = t1 (transform t1 h (blocksOf d q)) (Vector.ofFn fun j => byteAt d (64 * q + j.val))

/-- R157, R159 (general knowledge of the spec's, log 2): the message schedule of the reference transform: 16 big-endian words of the block, then the recurrence. -/
def Obligations.ScheduleRecurrence : Prop :=
  ∀ blk : Block, (schedule blk).length = 64 ∧
    (∀ t : Fin 16, (schedule blk).getD t.val 0#32 =
      (blk[4 * t.val].setWidth 32 <<< 24) ||| (blk[4 * t.val + 1].setWidth 32 <<< 16) |||
      (blk[4 * t.val + 2].setWidth 32 <<< 8) ||| blk[4 * t.val + 3].setWidth 32) ∧
    (∀ t : Nat, 16 ≤ t → t < 64 →
      (schedule blk).getD t 0#32 =
        smallSigma1 ((schedule blk).getD (t - 2) 0#32) + (schedule blk).getD (t - 7) 0#32 +
        smallSigma0 ((schedule blk).getD (t - 15) 0#32) + (schedule blk).getD (t - 16) 0#32)

/-- R156, R158, V21 (general knowledge of the spec's, log 2): `ROTR` rotates, and the reference transform's value on two blocks. -/
def Obligations.ReferenceTransformVectors : Prop :=
  (∀ (x : W32) (n : Nat), 1 ≤ n → n < 32 → rotr x n = x.rotateRight n) ∧
  t1Ref iv256 (Vector.replicate 64 0x00#8) =
    #v[0xda5698be#32, 0x17b9b469#32, 0x62335799#32, 0x779fbeca#32,
       0x8ce5d491#32, 0xc0d26243#32, 0xbafef9ea#32, 0x1837a9d8#32] ∧
  t1Ref iv256 (blockAt [0x80#8] 0) =
    #v[0xe3b0c442#32, 0x98fc1c14#32, 0x9afbf4c8#32, 0x996fb924#32,
       0x27ae41e4#32, 0x649b934c#32, 0xa495991b#32, 0x7852b855#32]

/-! ### The host, runs, several instances, and the assembler -/

/-- R40, R183: nothing a host can do to an engine reaches a register, the history or the parameters; it only adds to the command port
and to data-in and takes from the front of data-out. So a HashState reaches another engine only by that engine's own commands. -/
def Obligations.HostActsReachNoRegister : Prop :=
  ∀ (act : HostAct) (s : State),
    ∃ (words : List W32) (bytes taken left : List Byte), s.dataOut = taken ++ left ∧
      act.after s = { s with cmdPort := s.cmdPort ++ words, dataIn := s.dataIn ++ bytes, dataOut := left } ∧
      (∀ ws, act = .issueWords ws → words = ws ∧ bytes = [] ∧ taken = []) ∧
      (∀ bs, act = .supplyBytes bs → words = [] ∧ bytes = bs ∧ taken = []) ∧
      (∀ n, act = .takeBytes n → words = [] ∧ bytes = [] ∧ taken = s.dataOut.take n ∧ (act.run s).1 = .bytes taken) ∧
      (act = .readStatus → act.run s = (.word s.status, s)) ∧
      (act = .readFaultWord → act.run s = (.word s.faultWord, s))

/-- R204, R41, R42: in every run, whatever the order of steps and of the host's acts, each word the host issued and each byte it supplied
has been taken or is still pending, in order, and the bytes emitted, which are what is observed, are exactly those the host's acts have
handed it (`Run.handed`, the answers of its acts in order) and then those it has not taken. So a run of a
program has ended well exactly if the host has issued the program's words and supplied bytes of its payloads, nothing is pending, and no
fault is recorded. What counts as a run of a program is the model's choice where R204 leaves it open (log 19). -/
def Obligations.RunsAccountForEveryByte : Prop :=
  ∀ (s : State) (es : List RunEvent) (r : Run), Run.events es (Run.start s) = .next r →
    r.issued = r.wordsTaken ++ r.state.cmdPort ∧
    r.supplied = r.bytesTaken ++ r.state.dataIn ∧
    r.emitted = r.handed ++ r.state.dataOut ∧
    ∀ p : Assembled,
      (endsWell p r = true ↔
        r.issued = p.words ∧ r.supplied <+: p.dataIn ∧ r.state.cmdPort = [] ∧ r.state.dataIn = [] ∧
        r.state.faultCode = .none)

/-- R204, R44, R54: a program whose payloads are the bytes its commands take, issued and supplied to an engine with nothing pending, runs
command by command to a good end, if its commands run one after another without a fault. The observation is that of the commands. What a run of a program, its good end and
its observation are where R204 leaves them open, and that bytes on data-out when it begins count as emitted by it, is the model's choice
(log 19); the words taken are counted as R29 says. -/
def Obligations.DutifulProgramsEndWell : Prop :=
  ∀ (p : List (Instr × List Byte)) (s t : State), s.faultCode = .none → s.cmdPort = [] → s.dataIn = [] →
    (∀ c ∈ p, c.1.wellFormed = true ∧ dutiful c.1 c.2 = true) →
    execAll (p.map (·.1)) (supply (programOf p).dataIn s) = .next t → t.faultCode = .none →
    ∃ r, Run.events (.hostActs (.issueWords (programOf p).words) :: .hostActs (.supplyBytes (programOf p).dataIn) ::
        List.replicate p.length .engineStep) (Run.start s) = .next r ∧
      r.state = { t with cmdIndex := s.cmdIndex + (programOf p).words.length } ∧
      endsWell (programOf p) r = true ∧
      observe r = { dataOut := t.dataOut, status := t.status, calls := t.calls }


/-- R31, R56, R183: a step of one instance, what a host does to it and its reset leave every other instance as it was; a second host on
one instance is refused (that a refusal says so, and that the first host to act on an instance is its host, is the model's choice,
log 15). -/
def Obligations.InstancesAreIndependent : Prop :=
  (∀ (sys sys' : System) (k : Nat), sys.stepAt k = .next sys' →
    (∃ s t, sys.engines[k]? = some s ∧ step s = .next t ∧ sys'.engines[k]? = some t) ∧
    sys'.engines.length = sys.engines.length ∧ sys'.hosts = sys.hosts ∧
    ∀ j, j ≠ k → sys'.engines[j]? = sys.engines[j]?) ∧
  (∀ (sys sys' : System) (host k : Nat) (act : HostAct), sys.hostActs host k act = .next sys' →
    (∃ s, sys.engines[k]? = some s ∧ sys'.engines[k]? = some (act.after s)) ∧ sys'.hostOf k = some host ∧
    (∀ j, j ≠ k → sys'.engines[j]? = sys.engines[j]? ∧ sys'.hostOf j = sys.hostOf j) ∧
    (∀ (other : Nat) (act' : HostAct), other ≠ host →
      sys'.hostActs other k act' = .refused .refusedHost ∧ sys'.answer other k act' = none)) ∧
  (∀ (sys : System) (k : Nat),
    (sys.resetAt k).engines[k]? = (sys.engines[k]?).map assertReset ∧ (sys.resetAt k).hosts = sys.hosts ∧
    ∀ j, j ≠ k → (sys.resetAt k).engines[j]? = sys.engines[j]?)

/-- R70: each pseudo-command is its expansion, in any program. -/
def Obligations.PseudoCommandsExpand : Prop :=
  ∀ (before after : List AsmLine) (v : Variant) (len : Nat) (p : Payload),
    assemble (before ++ .hashLine v len p :: after) =
      assemble (before ++ .initLine v :: .updateLine len p :: .finalLine v :: after) ∧
    assemble (before ++ .reinitLine v :: after) = assemble (before ++ .initLine v :: after)

/-- R69, R68: what an UPDATE or IMPORT line assembles to: the two words of R64 with the payload's length, and the payload as data-in; an
UPDATE line whose payload's length is not `<len>` is refused. That such an IMPORT line is refused too is the model's choice (log 16):
R69 also says that for IMPORT the assembler accepts any `<len>`. -/
def Obligations.AssembledPayloads : Prop :=
  ∀ (len : Nat) (p : Payload) (d : List Byte), p.bytes = some d →
    (d.length = len → len < 2 ^ 32 →
      assemble [.updateLine len p] = some { words := [0x00000001#32, BitVec.ofNat 32 len], dataIn := d }) ∧
    (d.length = len → len < 2 ^ 32 → (∃ ds, p = .hex ds) →
      assemble [.importLine len p] = some { words := [0x00000004#32, BitVec.ofNat 32 len], dataIn := d }) ∧
    (d.length ≠ len → assemble [.updateLine len p] = none ∧ assemble [.importLine len p] = none)
end

