-- ==== Sys2Proof/Laws/Bytes.lean ====
section
/-!
SUPPORT. Byte sequences and blocks: reading a byte, cutting a sequence into blocks, and the fold of the transform.
-/

namespace Sys2Proof.Machine

@[simp] theorem byteAt_nil (i : Nat) : byteAt [] i = 0#8 := rfl

theorem byteAt_eq_getElem {d : List Byte} {i : Nat} (h : i < d.length) : byteAt d i = d[i] := by
  simp [byteAt, h]

theorem byteAt_append_left {a : List Byte} (b : List Byte) {i : Nat} (h : i < a.length) :
    byteAt (a ++ b) i = byteAt a i := by
  simp [byteAt, List.getElem?_append_left h]

theorem byteAt_append_right (a b : List Byte) (i : Nat) : byteAt (a ++ b) (a.length + i) = byteAt b i := by
  simp [byteAt, List.getElem?_append_right]

theorem byteAt_drop (d : List Byte) (n i : Nat) : byteAt (d.drop n) i = byteAt d (n + i) := by
  simp [byteAt]

theorem byteAt_take {d : List Byte} {n i : Nat} (h : i < n) : byteAt (d.take n) i = byteAt d i := by
  simp [byteAt, List.getElem?_take_of_lt h]

/-! ### Blocks -/

@[simp] theorem blockAt_getElem (d : List Byte) (off : Nat) {j : Nat} (h : j < 64) :
    (blockAt d off)[j] = byteAt d (off + j) := by
  simp [blockAt]

theorem blockAt_congr {d d' : List Byte} {off off' : Nat}
    (h : ∀ j < 64, byteAt d (off + j) = byteAt d' (off' + j)) : blockAt d off = blockAt d' off' := by
  refine Vector.ext fun j hj => ?_
  rw [blockAt_getElem _ _ hj, blockAt_getElem _ _ hj, h j hj]

theorem blockAt_drop (d : List Byte) (n off : Nat) : blockAt (d.drop n) off = blockAt d (n + off) :=
  blockAt_congr fun j _ => by rw [byteAt_drop, Nat.add_assoc]

theorem blockAt_append_left {a : List Byte} (b : List Byte) {off : Nat} (h : off + 64 ≤ a.length) :
    blockAt (a ++ b) off = blockAt a off :=
  blockAt_congr fun _ hj => byteAt_append_left b (by omega)

@[simp] theorem blocksOf_zero (d : List Byte) : blocksOf d 0 = [] := rfl

@[simp] theorem blocksOf_length (d : List Byte) (q : Nat) : (blocksOf d q).length = q := by
  simp [blocksOf]

theorem blocksOf_succ (d : List Byte) (q : Nat) : blocksOf d (q + 1) = blocksOf d q ++ [blockAt d (64 * q)] := by
  simp [blocksOf, List.range_succ]

/-- The first `p` blocks, then the blocks of what follows them. -/
theorem blocksOf_add (d : List Byte) (p q : Nat) :
    blocksOf d (p + q) = blocksOf d p ++ blocksOf (d.drop (64 * p)) q := by
  induction q with
  | zero => simp
  | succ q ih =>
    rw [← Nat.add_assoc, blocksOf_succ, ih, blocksOf_succ, blockAt_drop, ← Nat.mul_add, List.append_assoc]

theorem blocksOf_append_left {a : List Byte} (b : List Byte) {q : Nat} (h : 64 * q ≤ a.length) :
    blocksOf (a ++ b) q = blocksOf a q := by
  refine List.map_congr_left fun k hk => blockAt_append_left b ?_
  have := List.mem_range.1 hk
  omega

/-! ### The transform -/

@[simp] theorem transform_nil (t1 : Hash → Block → Hash) (h : Hash) : transform t1 h [] = h := rfl

@[simp] theorem transform_cons (t1 : Hash → Block → Hash) (h : Hash) (b : Block) (bs : List Block) :
    transform t1 h (b :: bs) = transform t1 (t1 h b) bs := rfl

theorem transform_append (t1 : Hash → Block → Hash) (h : Hash) (bs cs : List Block) :
    transform t1 h (bs ++ cs) = transform t1 (transform t1 h bs) cs := by
  simp [transform]

end Sys2Proof.Machine
end

