-- ==== Sys2Proof/Laws/State.lean ====
section
/-!
SUPPORT. One lemma per field per state operation, so that no later proof unfolds a record update.
-/

namespace Sys2Proof.Machine

@[simp] theorem raiseFault_h (c : FaultCode) (w : W32) (s : State) : (raiseFault c w s).h = s.h := rfl
@[simp] theorem raiseFault_count (c : FaultCode) (w : W32) (s : State) : (raiseFault c w s).count = s.count := rfl
@[simp] theorem raiseFault_buf (c : FaultCode) (w : W32) (s : State) : (raiseFault c w s).buf = s.buf := rfl
@[simp] theorem raiseFault_life (c : FaultCode) (w : W32) (s : State) : (raiseFault c w s).life = s.life := rfl
@[simp] theorem raiseFault_faultCode (c : FaultCode) (w : W32) (s : State) : (raiseFault c w s).faultCode = c := rfl
@[simp] theorem raiseFault_faultWord (c : FaultCode) (w : W32) (s : State) : (raiseFault c w s).faultWord = w := rfl
@[simp] theorem raiseFault_cmdPort (c : FaultCode) (w : W32) (s : State) : (raiseFault c w s).cmdPort = s.cmdPort := rfl
@[simp] theorem raiseFault_dataIn (c : FaultCode) (w : W32) (s : State) : (raiseFault c w s).dataIn = s.dataIn := rfl
@[simp] theorem raiseFault_dataOut (c : FaultCode) (w : W32) (s : State) : (raiseFault c w s).dataOut = s.dataOut := rfl
@[simp] theorem raiseFault_calls (c : FaultCode) (w : W32) (s : State) : (raiseFault c w s).calls = s.calls := rfl
@[simp] theorem raiseFault_cmdIndex (c : FaultCode) (w : W32) (s : State) : (raiseFault c w s).cmdIndex = s.cmdIndex := rfl
@[simp] theorem raiseFault_draws (c : FaultCode) (w : W32) (s : State) : (raiseFault c w s).draws = s.draws := rfl
@[simp] theorem raiseFault_config (c : FaultCode) (w : W32) (s : State) : (raiseFault c w s).config = s.config := rfl

@[simp] theorem takeWords_h (n : Nat) (s : State) : (takeWords n s).h = s.h := rfl
@[simp] theorem takeWords_count (n : Nat) (s : State) : (takeWords n s).count = s.count := rfl
@[simp] theorem takeWords_buf (n : Nat) (s : State) : (takeWords n s).buf = s.buf := rfl
@[simp] theorem takeWords_life (n : Nat) (s : State) : (takeWords n s).life = s.life := rfl
@[simp] theorem takeWords_faultCode (n : Nat) (s : State) : (takeWords n s).faultCode = s.faultCode := rfl
@[simp] theorem takeWords_faultWord (n : Nat) (s : State) : (takeWords n s).faultWord = s.faultWord := rfl
@[simp] theorem takeWords_cmdPort (n : Nat) (s : State) : (takeWords n s).cmdPort = s.cmdPort.drop n := rfl
@[simp] theorem takeWords_dataIn (n : Nat) (s : State) : (takeWords n s).dataIn = s.dataIn := rfl
@[simp] theorem takeWords_dataOut (n : Nat) (s : State) : (takeWords n s).dataOut = s.dataOut := rfl
@[simp] theorem takeWords_calls (n : Nat) (s : State) : (takeWords n s).calls = s.calls := rfl
@[simp] theorem takeWords_cmdIndex (n : Nat) (s : State) : (takeWords n s).cmdIndex = s.cmdIndex + n := rfl
@[simp] theorem takeWords_draws (n : Nat) (s : State) : (takeWords n s).draws = s.draws := rfl
@[simp] theorem takeWords_config (n : Nat) (s : State) : (takeWords n s).config = s.config := rfl

@[simp] theorem emit_h (d : List Byte) (s : State) : (emit d s).h = s.h := rfl
@[simp] theorem emit_count (d : List Byte) (s : State) : (emit d s).count = s.count := rfl
@[simp] theorem emit_buf (d : List Byte) (s : State) : (emit d s).buf = s.buf := rfl
@[simp] theorem emit_life (d : List Byte) (s : State) : (emit d s).life = s.life := rfl
@[simp] theorem emit_faultCode (d : List Byte) (s : State) : (emit d s).faultCode = s.faultCode := rfl
@[simp] theorem emit_faultWord (d : List Byte) (s : State) : (emit d s).faultWord = s.faultWord := rfl
@[simp] theorem emit_cmdPort (d : List Byte) (s : State) : (emit d s).cmdPort = s.cmdPort := rfl
@[simp] theorem emit_dataIn (d : List Byte) (s : State) : (emit d s).dataIn = s.dataIn := rfl
@[simp] theorem emit_dataOut (d : List Byte) (s : State) : (emit d s).dataOut = s.dataOut ++ d := rfl
@[simp] theorem emit_calls (d : List Byte) (s : State) : (emit d s).calls = s.calls := rfl
@[simp] theorem emit_cmdIndex (d : List Byte) (s : State) : (emit d s).cmdIndex = s.cmdIndex := rfl
@[simp] theorem emit_draws (d : List Byte) (s : State) : (emit d s).draws = s.draws := rfl
@[simp] theorem emit_config (d : List Byte) (s : State) : (emit d s).config = s.config := rfl

@[simp] theorem writeBuf_h (off : Nat) (d : List Byte) (s : State) : (writeBuf off d s).h = s.h := by unfold writeBuf; rfl
@[simp] theorem writeBuf_count (off : Nat) (d : List Byte) (s : State) : (writeBuf off d s).count = s.count := by unfold writeBuf; rfl
@[simp] theorem writeBuf_life (off : Nat) (d : List Byte) (s : State) : (writeBuf off d s).life = s.life := by unfold writeBuf; rfl
@[simp] theorem writeBuf_faultCode (off : Nat) (d : List Byte) (s : State) : (writeBuf off d s).faultCode = s.faultCode := by unfold writeBuf; rfl
@[simp] theorem writeBuf_faultWord (off : Nat) (d : List Byte) (s : State) : (writeBuf off d s).faultWord = s.faultWord := by unfold writeBuf; rfl
@[simp] theorem writeBuf_cmdPort (off : Nat) (d : List Byte) (s : State) : (writeBuf off d s).cmdPort = s.cmdPort := by unfold writeBuf; rfl
@[simp] theorem writeBuf_dataIn (off : Nat) (d : List Byte) (s : State) : (writeBuf off d s).dataIn = s.dataIn := by unfold writeBuf; rfl
@[simp] theorem writeBuf_dataOut (off : Nat) (d : List Byte) (s : State) : (writeBuf off d s).dataOut = s.dataOut := by unfold writeBuf; rfl
@[simp] theorem writeBuf_calls (off : Nat) (d : List Byte) (s : State) : (writeBuf off d s).calls = s.calls := by unfold writeBuf; rfl
@[simp] theorem writeBuf_cmdIndex (off : Nat) (d : List Byte) (s : State) : (writeBuf off d s).cmdIndex = s.cmdIndex := by unfold writeBuf; rfl
@[simp] theorem writeBuf_draws (off : Nat) (d : List Byte) (s : State) : (writeBuf off d s).draws = s.draws := by unfold writeBuf; rfl
@[simp] theorem writeBuf_config (off : Nat) (d : List Byte) (s : State) : (writeBuf off d s).config = s.config := by unfold writeBuf; rfl

@[simp] theorem forgetBuf_h (e : Nat) (s : State) : (forgetBuf e s).h = s.h := by unfold forgetBuf; rfl
@[simp] theorem forgetBuf_count (e : Nat) (s : State) : (forgetBuf e s).count = s.count := by unfold forgetBuf; rfl
@[simp] theorem forgetBuf_life (e : Nat) (s : State) : (forgetBuf e s).life = s.life := by unfold forgetBuf; rfl
@[simp] theorem forgetBuf_faultCode (e : Nat) (s : State) : (forgetBuf e s).faultCode = s.faultCode := by unfold forgetBuf; rfl
@[simp] theorem forgetBuf_faultWord (e : Nat) (s : State) : (forgetBuf e s).faultWord = s.faultWord := by unfold forgetBuf; rfl
@[simp] theorem forgetBuf_cmdPort (e : Nat) (s : State) : (forgetBuf e s).cmdPort = s.cmdPort := by unfold forgetBuf; rfl
@[simp] theorem forgetBuf_dataIn (e : Nat) (s : State) : (forgetBuf e s).dataIn = s.dataIn := by unfold forgetBuf; rfl
@[simp] theorem forgetBuf_dataOut (e : Nat) (s : State) : (forgetBuf e s).dataOut = s.dataOut := by unfold forgetBuf; rfl
@[simp] theorem forgetBuf_calls (e : Nat) (s : State) : (forgetBuf e s).calls = s.calls := by unfold forgetBuf; rfl
@[simp] theorem forgetBuf_cmdIndex (e : Nat) (s : State) : (forgetBuf e s).cmdIndex = s.cmdIndex := by unfold forgetBuf; rfl
@[simp] theorem forgetBuf_draws (e : Nat) (s : State) : (forgetBuf e s).draws = s.draws + (64 - e) := by unfold forgetBuf; rfl
@[simp] theorem forgetBuf_config (e : Nat) (s : State) : (forgetBuf e s).config = s.config := by unfold forgetBuf; rfl

@[simp] theorem callTransform_h (src : CallSrc) (bs : List Block) (s : State) : (callTransform src bs s).h = transform (t1Of s.config.transform) s.h bs := rfl
@[simp] theorem callTransform_count (src : CallSrc) (bs : List Block) (s : State) : (callTransform src bs s).count = s.count := rfl
@[simp] theorem callTransform_buf (src : CallSrc) (bs : List Block) (s : State) : (callTransform src bs s).buf = s.buf := rfl
@[simp] theorem callTransform_life (src : CallSrc) (bs : List Block) (s : State) : (callTransform src bs s).life = s.life := rfl
@[simp] theorem callTransform_faultCode (src : CallSrc) (bs : List Block) (s : State) : (callTransform src bs s).faultCode = s.faultCode := rfl
@[simp] theorem callTransform_faultWord (src : CallSrc) (bs : List Block) (s : State) : (callTransform src bs s).faultWord = s.faultWord := rfl
@[simp] theorem callTransform_cmdPort (src : CallSrc) (bs : List Block) (s : State) : (callTransform src bs s).cmdPort = s.cmdPort := rfl
@[simp] theorem callTransform_dataIn (src : CallSrc) (bs : List Block) (s : State) : (callTransform src bs s).dataIn = s.dataIn := rfl
@[simp] theorem callTransform_dataOut (src : CallSrc) (bs : List Block) (s : State) : (callTransform src bs s).dataOut = s.dataOut := rfl
@[simp] theorem callTransform_calls (src : CallSrc) (bs : List Block) (s : State) : (callTransform src bs s).calls = s.calls ++ [{ src := src, blocks := bs }] := rfl
@[simp] theorem callTransform_cmdIndex (src : CallSrc) (bs : List Block) (s : State) : (callTransform src bs s).cmdIndex = s.cmdIndex := rfl
@[simp] theorem callTransform_draws (src : CallSrc) (bs : List Block) (s : State) : (callTransform src bs s).draws = s.draws := rfl
@[simp] theorem callTransform_config (src : CallSrc) (bs : List Block) (s : State) : (callTransform src bs s).config = s.config := rfl

@[simp] theorem addCount_h (n : Nat) (s : State) : (addCount n s).h = s.h := rfl
@[simp] theorem addCount_count (n : Nat) (s : State) : (addCount n s).count = s.count + BitVec.ofNat 64 n := rfl
@[simp] theorem addCount_buf (n : Nat) (s : State) : (addCount n s).buf = s.buf := rfl
@[simp] theorem addCount_life (n : Nat) (s : State) : (addCount n s).life = s.life := rfl
@[simp] theorem addCount_faultCode (n : Nat) (s : State) : (addCount n s).faultCode = s.faultCode := rfl
@[simp] theorem addCount_faultWord (n : Nat) (s : State) : (addCount n s).faultWord = s.faultWord := rfl
@[simp] theorem addCount_cmdPort (n : Nat) (s : State) : (addCount n s).cmdPort = s.cmdPort := rfl
@[simp] theorem addCount_dataIn (n : Nat) (s : State) : (addCount n s).dataIn = s.dataIn := rfl
@[simp] theorem addCount_dataOut (n : Nat) (s : State) : (addCount n s).dataOut = s.dataOut := rfl
@[simp] theorem addCount_calls (n : Nat) (s : State) : (addCount n s).calls = s.calls := rfl
@[simp] theorem addCount_cmdIndex (n : Nat) (s : State) : (addCount n s).cmdIndex = s.cmdIndex := rfl
@[simp] theorem addCount_draws (n : Nat) (s : State) : (addCount n s).draws = s.draws := rfl
@[simp] theorem addCount_config (n : Nat) (s : State) : (addCount n s).config = s.config := rfl

@[simp] theorem startMessage_h (v : Variant) (s : State) : (startMessage v s).h = initialWords v := rfl
@[simp] theorem startMessage_count (v : Variant) (s : State) : (startMessage v s).count = 0#64 := rfl
@[simp] theorem startMessage_buf (v : Variant) (s : State) : (startMessage v s).buf = s.buf := rfl
@[simp] theorem startMessage_life (v : Variant) (s : State) : (startMessage v s).life = .live := rfl
@[simp] theorem startMessage_faultCode (v : Variant) (s : State) : (startMessage v s).faultCode = s.faultCode := rfl
@[simp] theorem startMessage_faultWord (v : Variant) (s : State) : (startMessage v s).faultWord = s.faultWord := rfl
@[simp] theorem startMessage_cmdPort (v : Variant) (s : State) : (startMessage v s).cmdPort = s.cmdPort := rfl
@[simp] theorem startMessage_dataIn (v : Variant) (s : State) : (startMessage v s).dataIn = s.dataIn := rfl
@[simp] theorem startMessage_dataOut (v : Variant) (s : State) : (startMessage v s).dataOut = s.dataOut := rfl
@[simp] theorem startMessage_calls (v : Variant) (s : State) : (startMessage v s).calls = s.calls := rfl
@[simp] theorem startMessage_cmdIndex (v : Variant) (s : State) : (startMessage v s).cmdIndex = s.cmdIndex := rfl
@[simp] theorem startMessage_draws (v : Variant) (s : State) : (startMessage v s).draws = s.draws := rfl
@[simp] theorem startMessage_config (v : Variant) (s : State) : (startMessage v s).config = s.config := rfl

@[simp] theorem loadSnapshot_h (d : List Byte) (s : State) : (loadSnapshot d s).h = unsnapH s.config.snapEndian d := by unfold loadSnapshot; rfl
@[simp] theorem loadSnapshot_count (d : List Byte) (s : State) : (loadSnapshot d s).count = unsnapCount s.config.snapEndian d := by unfold loadSnapshot; rfl
@[simp] theorem loadSnapshot_buf (d : List Byte) (s : State) : (loadSnapshot d s).buf = unsnapBuf d := by unfold loadSnapshot; rfl
@[simp] theorem loadSnapshot_life (d : List Byte) (s : State) : (loadSnapshot d s).life = .live := by unfold loadSnapshot; rfl
@[simp] theorem loadSnapshot_faultCode (d : List Byte) (s : State) : (loadSnapshot d s).faultCode = s.faultCode := by unfold loadSnapshot; rfl
@[simp] theorem loadSnapshot_faultWord (d : List Byte) (s : State) : (loadSnapshot d s).faultWord = s.faultWord := by unfold loadSnapshot; rfl
@[simp] theorem loadSnapshot_cmdPort (d : List Byte) (s : State) : (loadSnapshot d s).cmdPort = s.cmdPort := by unfold loadSnapshot; rfl
@[simp] theorem loadSnapshot_dataIn (d : List Byte) (s : State) : (loadSnapshot d s).dataIn = s.dataIn := by unfold loadSnapshot; rfl
@[simp] theorem loadSnapshot_dataOut (d : List Byte) (s : State) : (loadSnapshot d s).dataOut = s.dataOut := by unfold loadSnapshot; rfl
@[simp] theorem loadSnapshot_calls (d : List Byte) (s : State) : (loadSnapshot d s).calls = s.calls := by unfold loadSnapshot; rfl
@[simp] theorem loadSnapshot_cmdIndex (d : List Byte) (s : State) : (loadSnapshot d s).cmdIndex = s.cmdIndex := by unfold loadSnapshot; rfl
@[simp] theorem loadSnapshot_draws (d : List Byte) (s : State) : (loadSnapshot d s).draws = s.draws := by unfold loadSnapshot; rfl
@[simp] theorem loadSnapshot_config (d : List Byte) (s : State) : (loadSnapshot d s).config = s.config := by unfold loadSnapshot; rfl

@[simp] theorem wipe_h (s : State) : (wipe s).h = Vector.replicate 8 0#32 := by unfold wipe; rfl
@[simp] theorem wipe_count (s : State) : (wipe s).count = 0#64 := by unfold wipe; rfl
@[simp] theorem wipe_buf (s : State) : (wipe s).buf = Vector.replicate 64 0#8 := by unfold wipe; rfl
@[simp] theorem wipe_life (s : State) : (wipe s).life = .wiped := by unfold wipe; rfl
@[simp] theorem wipe_faultCode (s : State) : (wipe s).faultCode = s.faultCode := by unfold wipe; rfl
@[simp] theorem wipe_faultWord (s : State) : (wipe s).faultWord = s.faultWord := by unfold wipe; rfl
@[simp] theorem wipe_cmdPort (s : State) : (wipe s).cmdPort = s.cmdPort := by unfold wipe; rfl
@[simp] theorem wipe_dataIn (s : State) : (wipe s).dataIn = s.dataIn := by unfold wipe; rfl
@[simp] theorem wipe_dataOut (s : State) : (wipe s).dataOut = s.dataOut := by unfold wipe; rfl
@[simp] theorem wipe_calls (s : State) : (wipe s).calls = s.calls := by unfold wipe; rfl
@[simp] theorem wipe_cmdIndex (s : State) : (wipe s).cmdIndex = s.cmdIndex := by unfold wipe; rfl
@[simp] theorem wipe_draws (s : State) : (wipe s).draws = s.draws := by unfold wipe; rfl
@[simp] theorem wipe_config (s : State) : (wipe s).config = s.config := by unfold wipe; rfl

@[simp] theorem exportSnapshot_h (s : State) : (exportSnapshot s).h = s.h := by unfold exportSnapshot; rfl
@[simp] theorem exportSnapshot_count (s : State) : (exportSnapshot s).count = s.count := by unfold exportSnapshot; rfl
@[simp] theorem exportSnapshot_buf (s : State) : (exportSnapshot s).buf = s.buf := by unfold exportSnapshot; rfl
@[simp] theorem exportSnapshot_life (s : State) : (exportSnapshot s).life = s.life := by unfold exportSnapshot; rfl
@[simp] theorem exportSnapshot_faultCode (s : State) : (exportSnapshot s).faultCode = s.faultCode := by unfold exportSnapshot; rfl
@[simp] theorem exportSnapshot_faultWord (s : State) : (exportSnapshot s).faultWord = s.faultWord := by unfold exportSnapshot; rfl
@[simp] theorem exportSnapshot_cmdPort (s : State) : (exportSnapshot s).cmdPort = s.cmdPort := by unfold exportSnapshot; rfl
@[simp] theorem exportSnapshot_dataIn (s : State) : (exportSnapshot s).dataIn = s.dataIn := by unfold exportSnapshot; rfl
@[simp] theorem exportSnapshot_dataOut (s : State) : (exportSnapshot s).dataOut = s.dataOut ++ snap s.config.snapEndian s.h s.count (observedBuf s) := by unfold exportSnapshot; rfl
@[simp] theorem exportSnapshot_calls (s : State) : (exportSnapshot s).calls = s.calls := by unfold exportSnapshot; rfl
@[simp] theorem exportSnapshot_cmdIndex (s : State) : (exportSnapshot s).cmdIndex = s.cmdIndex := by unfold exportSnapshot; rfl
@[simp] theorem exportSnapshot_draws (s : State) : (exportSnapshot s).draws = s.draws + drawsObserved s := by unfold exportSnapshot; rfl
@[simp] theorem exportSnapshot_config (s : State) : (exportSnapshot s).config = s.config := by unfold exportSnapshot; rfl

@[simp] theorem issue_h (ws : List W32) (s : State) : (issue ws s).h = s.h := rfl
@[simp] theorem issue_count (ws : List W32) (s : State) : (issue ws s).count = s.count := rfl
@[simp] theorem issue_buf (ws : List W32) (s : State) : (issue ws s).buf = s.buf := rfl
@[simp] theorem issue_life (ws : List W32) (s : State) : (issue ws s).life = s.life := rfl
@[simp] theorem issue_faultCode (ws : List W32) (s : State) : (issue ws s).faultCode = s.faultCode := rfl
@[simp] theorem issue_faultWord (ws : List W32) (s : State) : (issue ws s).faultWord = s.faultWord := rfl
@[simp] theorem issue_cmdPort (ws : List W32) (s : State) : (issue ws s).cmdPort = s.cmdPort ++ ws := rfl
@[simp] theorem issue_dataIn (ws : List W32) (s : State) : (issue ws s).dataIn = s.dataIn := rfl
@[simp] theorem issue_dataOut (ws : List W32) (s : State) : (issue ws s).dataOut = s.dataOut := rfl
@[simp] theorem issue_calls (ws : List W32) (s : State) : (issue ws s).calls = s.calls := rfl
@[simp] theorem issue_cmdIndex (ws : List W32) (s : State) : (issue ws s).cmdIndex = s.cmdIndex := rfl
@[simp] theorem issue_draws (ws : List W32) (s : State) : (issue ws s).draws = s.draws := rfl
@[simp] theorem issue_config (ws : List W32) (s : State) : (issue ws s).config = s.config := rfl

@[simp] theorem supply_h (bs : List Byte) (s : State) : (supply bs s).h = s.h := rfl
@[simp] theorem supply_count (bs : List Byte) (s : State) : (supply bs s).count = s.count := rfl
@[simp] theorem supply_buf (bs : List Byte) (s : State) : (supply bs s).buf = s.buf := rfl
@[simp] theorem supply_life (bs : List Byte) (s : State) : (supply bs s).life = s.life := rfl
@[simp] theorem supply_faultCode (bs : List Byte) (s : State) : (supply bs s).faultCode = s.faultCode := rfl
@[simp] theorem supply_faultWord (bs : List Byte) (s : State) : (supply bs s).faultWord = s.faultWord := rfl
@[simp] theorem supply_cmdPort (bs : List Byte) (s : State) : (supply bs s).cmdPort = s.cmdPort := rfl
@[simp] theorem supply_dataIn (bs : List Byte) (s : State) : (supply bs s).dataIn = s.dataIn ++ bs := rfl
@[simp] theorem supply_dataOut (bs : List Byte) (s : State) : (supply bs s).dataOut = s.dataOut := rfl
@[simp] theorem supply_calls (bs : List Byte) (s : State) : (supply bs s).calls = s.calls := rfl
@[simp] theorem supply_cmdIndex (bs : List Byte) (s : State) : (supply bs s).cmdIndex = s.cmdIndex := rfl
@[simp] theorem supply_draws (bs : List Byte) (s : State) : (supply bs s).draws = s.draws := rfl
@[simp] theorem supply_config (bs : List Byte) (s : State) : (supply bs s).config = s.config := rfl

@[simp] theorem putFirst_h (ws : List W32) (s : State) : (putFirst ws s).h = s.h := rfl
@[simp] theorem putFirst_count (ws : List W32) (s : State) : (putFirst ws s).count = s.count := rfl
@[simp] theorem putFirst_buf (ws : List W32) (s : State) : (putFirst ws s).buf = s.buf := rfl
@[simp] theorem putFirst_life (ws : List W32) (s : State) : (putFirst ws s).life = s.life := rfl
@[simp] theorem putFirst_faultCode (ws : List W32) (s : State) : (putFirst ws s).faultCode = s.faultCode := rfl
@[simp] theorem putFirst_faultWord (ws : List W32) (s : State) : (putFirst ws s).faultWord = s.faultWord := rfl
@[simp] theorem putFirst_cmdPort (ws : List W32) (s : State) : (putFirst ws s).cmdPort = ws ++ s.cmdPort := rfl
@[simp] theorem putFirst_dataIn (ws : List W32) (s : State) : (putFirst ws s).dataIn = s.dataIn := rfl
@[simp] theorem putFirst_dataOut (ws : List W32) (s : State) : (putFirst ws s).dataOut = s.dataOut := rfl
@[simp] theorem putFirst_calls (ws : List W32) (s : State) : (putFirst ws s).calls = s.calls := rfl
@[simp] theorem putFirst_cmdIndex (ws : List W32) (s : State) : (putFirst ws s).cmdIndex = s.cmdIndex := rfl
@[simp] theorem putFirst_draws (ws : List W32) (s : State) : (putFirst ws s).draws = s.draws := rfl
@[simp] theorem putFirst_config (ws : List W32) (s : State) : (putFirst ws s).config = s.config := rfl

@[simp] theorem takeDataOut_h (n : Nat) (s : State) : (takeDataOut n s).2.h = s.h := rfl
@[simp] theorem takeDataOut_count (n : Nat) (s : State) : (takeDataOut n s).2.count = s.count := rfl
@[simp] theorem takeDataOut_buf (n : Nat) (s : State) : (takeDataOut n s).2.buf = s.buf := rfl
@[simp] theorem takeDataOut_life (n : Nat) (s : State) : (takeDataOut n s).2.life = s.life := rfl
@[simp] theorem takeDataOut_faultCode (n : Nat) (s : State) : (takeDataOut n s).2.faultCode = s.faultCode := rfl
@[simp] theorem takeDataOut_faultWord (n : Nat) (s : State) : (takeDataOut n s).2.faultWord = s.faultWord := rfl
@[simp] theorem takeDataOut_cmdPort (n : Nat) (s : State) : (takeDataOut n s).2.cmdPort = s.cmdPort := rfl
@[simp] theorem takeDataOut_dataIn (n : Nat) (s : State) : (takeDataOut n s).2.dataIn = s.dataIn := rfl
@[simp] theorem takeDataOut_dataOut (n : Nat) (s : State) : (takeDataOut n s).2.dataOut = s.dataOut.drop n := rfl
@[simp] theorem takeDataOut_calls (n : Nat) (s : State) : (takeDataOut n s).2.calls = s.calls := rfl
@[simp] theorem takeDataOut_cmdIndex (n : Nat) (s : State) : (takeDataOut n s).2.cmdIndex = s.cmdIndex := rfl
@[simp] theorem takeDataOut_draws (n : Nat) (s : State) : (takeDataOut n s).2.draws = s.draws := rfl
@[simp] theorem takeDataOut_config (n : Nat) (s : State) : (takeDataOut n s).2.config = s.config := rfl

@[simp] theorem assertReset_h (s : State) : (assertReset s).h = State.reset.h := rfl
@[simp] theorem assertReset_count (s : State) : (assertReset s).count = State.reset.count := rfl
@[simp] theorem assertReset_buf (s : State) : (assertReset s).buf = State.reset.buf := rfl
@[simp] theorem assertReset_life (s : State) : (assertReset s).life = State.reset.life := rfl
@[simp] theorem assertReset_faultCode (s : State) : (assertReset s).faultCode = State.reset.faultCode := rfl
@[simp] theorem assertReset_faultWord (s : State) : (assertReset s).faultWord = State.reset.faultWord := rfl
@[simp] theorem assertReset_cmdPort (s : State) : (assertReset s).cmdPort = State.reset.cmdPort := rfl
@[simp] theorem assertReset_dataIn (s : State) : (assertReset s).dataIn = State.reset.dataIn := rfl
@[simp] theorem assertReset_dataOut (s : State) : (assertReset s).dataOut = State.reset.dataOut := rfl
@[simp] theorem assertReset_calls (s : State) : (assertReset s).calls = State.reset.calls := rfl
@[simp] theorem assertReset_cmdIndex (s : State) : (assertReset s).cmdIndex = State.reset.cmdIndex := rfl
@[simp] theorem assertReset_draws (s : State) : (assertReset s).draws = s.draws := rfl
@[simp] theorem assertReset_config (s : State) : (assertReset s).config = s.config := rfl

@[simp] theorem after_issueWords (ws : List W32) (s : State) : (HostAct.issueWords ws).after s = issue ws s := rfl
@[simp] theorem after_supplyBytes (bs : List Byte) (s : State) : (HostAct.supplyBytes bs).after s = supply bs s := rfl
@[simp] theorem after_takeBytes (n : Nat) (s : State) : (HostAct.takeBytes n).after s = (takeDataOut n s).2 := rfl
@[simp] theorem after_readStatus (s : State) : HostAct.readStatus.after s = s := rfl
@[simp] theorem after_readFaultWord (s : State) : HostAct.readFaultWord.after s = s := rfl

end Sys2Proof.Machine
end

