-- ==== Sys2Proof/Laws/Absorb.lean ====
section
/-!
SUPPORT. What an absorption does (41_update.md R90), said once: the bytes carried in the buffer and the payload form one
sequence, whose whole blocks are transformed in order and whose remainder is carried on.
-/

namespace Sys2Proof.Machine

/-! ### The buffer -/

theorem fill_lt (s : State) : fill s < 64 := Nat.mod_lt _ (by decide)

@[simp] theorem carried_length (s : State) : (carried s).length = fill s := by
  have := fill_lt s
  simp only [carried, List.length_take, Vector.length_toList]
  omega

theorem writeBuf_getElem (off : Nat) (d : List Byte) (s : State) {i : Nat} (hi : i < 64) :
    (writeBuf off d s).buf[i] = if off ≤ i ∧ i < off + d.length then byteAt d (i - off) else s.buf[i] := by
  simp [writeBuf]

theorem forgetBuf_getElem (e : Nat) (s : State) {i : Nat} (hi : i < 64) :
    (forgetBuf e s).buf[i] = if i < e then s.buf[i] else Config.freeByte (s.draws + (i - e)) := by
  simp [forgetBuf]

/-- Writing inside the buffer splices the bytes in. -/
theorem writeBuf_toList {off : Nat} {d : List Byte} {s : State} (h : off + d.length ≤ 64) :
    (writeBuf off d s).buf.toList = s.buf.toList.take off ++ d ++ s.buf.toList.drop (off + d.length) := by
  apply List.ext_getElem
  · simp; omega
  · intro i hi hi'
    have hi64 : i < 64 := by simpa using hi
    rw [Vector.getElem_toList, writeBuf_getElem _ _ _ hi64]
    by_cases h1 : i < off
    · have : ¬ (off ≤ i ∧ i < off + d.length) := by omega
      have h3 : i < (s.buf.toList.take off).length := by simp; omega
      rw [if_neg this, List.getElem_append_left (by simp; omega), List.getElem_append_left h3]
      simp
    · by_cases h2 : i < off + d.length
      · rw [if_pos (by omega), List.getElem_append_left (by simp; omega),
          List.getElem_append_right (by simp; omega), byteAt_eq_getElem (by omega)]
        congr 1; simp; omega
      · rw [if_neg (by omega), List.getElem_append_right (by simp; omega)]
        simp only [List.getElem_drop, Vector.getElem_toList]
        congr 1; simp; omega

/-- Nothing written: the buffer stays. -/
theorem writeBuf_nil (off : Nat) (s : State) : writeBuf off [] s = s := by
  have : (writeBuf off [] s).buf = s.buf := by
    refine Vector.ext fun i hi => ?_
    rw [writeBuf_getElem _ _ _ hi, if_neg (by simp)]
  exact (congrArg (fun b => ({ s with buf := b } : State)) this : _)

theorem forgetBuf_take {e : Nat} (s : State) (he : e ≤ 64) :
    (forgetBuf e s).buf.toList.take e = s.buf.toList.take e := by
  apply List.ext_getElem
  · simp
  · intro i hi hi'
    have hie : i < e := by simp at hi; omega
    simp only [List.getElem_take, Vector.getElem_toList]
    rw [forgetBuf_getElem _ _ (by omega), if_pos hie]

/-- The buffer filled from `part` on by the head of `d` is the first block of what was there and `d`. -/
theorem filled_buf {part : Nat} {d : List Byte} {s : State} (hp : part ≤ 64) (h : 64 ≤ part + d.length) :
    (writeBuf part (d.take (64 - part)) s).buf = blockAt (s.buf.toList.take part ++ d) 0 := by
  have hl : (d.take (64 - part)).length = 64 - part := by simp; omega
  refine Vector.ext fun i hi => ?_
  rw [blockAt_getElem _ _ hi, Nat.zero_add, writeBuf_getElem _ _ _ hi, hl]
  by_cases h1 : i < part
  · rw [if_neg (by omega), byteAt_append_left _ (by simp; omega), byteAt_eq_getElem (by simp; omega)]
    simp
  · rw [if_pos (by omega), byteAt_take (by omega)]
    have := byteAt_append_right (s.buf.toList.take part) d (i - part)
    rw [← this]
    congr 1; simp; omega

/-! ### The slow path -/

/-- The calls of the slow path (R94, R95). -/
def slowCalls (m : List Byte) : List TransformCall :=
  { src := .buf, blocks := [blockAt m 0] } ::
    (if 1 ≤ (m.drop 64).length / 64 then [{ src := .data, blocks := blocksOf (m.drop 64) ((m.drop 64).length / 64) }] else [])

theorem slowCalls_blocks {m : List Byte} (h : 64 ≤ m.length) :
    (slowCalls m).flatMap (·.blocks) = blocksOf m (m.length / 64) := by
  have hq : m.length / 64 = 1 + (m.drop 64).length / 64 := by simp; omega
  rw [hq, blocksOf_add]
  unfold slowCalls
  split
  · simp [blocksOf]
  · rename_i hn
    have : (m.drop 64).length / 64 = 0 := by omega
    rw [this]; simp [blocksOf]

/-- Everything the slow path does, with `m` the bytes before `part` and the payload as one sequence. -/
theorem absorbBlocks_spec {part : Nat} {d : List Byte} {s : State} (hp : part ≤ 64) (h : 64 ≤ part + d.length) :
    let m := s.buf.toList.take part ++ d
    let t := absorbBlocks part d s
    t.h = transform (t1Of s.config.transform) s.h (blocksOf m (m.length / 64)) ∧
    t.calls = s.calls ++ slowCalls m ∧
    t.buf.toList.take (m.length % 64) = m.drop (64 * (m.length / 64)) ∧
    t.draws = s.draws + (64 - m.length % 64) := by
  intro m
  have hm : m.length = part + d.length := by simp [m]; omega
  have hrest : d.drop (64 - part) = m.drop 64 := by
    have : (s.buf.toList.take part).length = part := by simp; omega
    simp [m, List.drop_append, this]; omega
  have hrl : (m.drop 64).length = m.length - 64 := by simp
  have hq : m.length / 64 = 1 + (m.drop 64).length / 64 := by rw [hrl]; omega
  have htail : (m.drop 64).drop (64 * ((m.drop 64).length / 64)) = m.drop (64 * (m.length / 64)) := by
    rw [List.drop_drop, hq]; congr 1; omega
  have htl : ((m.drop 64).drop (64 * ((m.drop 64).length / 64))).length = m.length % 64 := by
    rw [htail, List.length_drop]; omega
  have hfilled : (writeBuf part (d.take (64 - part)) s).buf = blockAt m 0 := filled_buf hp h
  have hblocks : blocksOf m (m.length / 64)
      = blockAt m 0 :: blocksOf (m.drop 64) ((m.drop 64).length / 64) := by
    rw [hq, blocksOf_add]; simp [blocksOf]
  simp only [absorbBlocks, hrest, hfilled, htl]
  refine ⟨?_, ?_, ?_, ?_⟩
  · rw [hblocks]
    split
    · simp
    · rename_i hn
      have : (m.drop 64).length / 64 = 0 := by omega
      rw [this]; simp
  · unfold slowCalls
    split <;> simp [List.append_assoc]
  · rw [forgetBuf_take _ (by omega), writeBuf_toList (by rw [htl]; omega), ← htl]
    simp only [List.take_zero, List.nil_append, List.take_left']
    rw [htail]
  · split <;> simp

/-- What no slow path touches. -/
theorem absorbBlocks_frame (part : Nat) (d : List Byte) (s : State) :
    let t := absorbBlocks part d s
    t.count = s.count ∧ t.life = s.life ∧ t.faultCode = s.faultCode ∧ t.faultWord = s.faultWord ∧
    t.cmdPort = s.cmdPort ∧ t.dataIn = s.dataIn ∧ t.dataOut = s.dataOut ∧ t.cmdIndex = s.cmdIndex ∧
    t.config = s.config := by
  simp only [absorbBlocks]
  split <;> simp

/-! ### Absorption -/

/-- An absorption writes neither `LIFE` nor the fault registers, nor a stream, nor the command port. -/
theorem absorb_frame (d : List Byte) (s : State) :
    let t := absorb d s
    t.life = s.life ∧ t.faultCode = s.faultCode ∧ t.faultWord = s.faultWord ∧ t.cmdPort = s.cmdPort ∧
    t.dataIn = s.dataIn ∧ t.dataOut = s.dataOut ∧ t.cmdIndex = s.cmdIndex ∧ t.config = s.config := by
  simp only [absorb]
  split
  · simp
  · have := absorbBlocks_frame (fill s) d (addCount d.length s)
    simp_all

@[simp] theorem absorb_life (d : List Byte) (s : State) : (absorb d s).life = s.life := (absorb_frame d s).1
@[simp] theorem absorb_faultCode (d : List Byte) (s : State) : (absorb d s).faultCode = s.faultCode := (absorb_frame d s).2.1
@[simp] theorem absorb_faultWord (d : List Byte) (s : State) : (absorb d s).faultWord = s.faultWord := (absorb_frame d s).2.2.1
@[simp] theorem absorb_cmdPort (d : List Byte) (s : State) : (absorb d s).cmdPort = s.cmdPort := (absorb_frame d s).2.2.2.1
@[simp] theorem absorb_dataIn (d : List Byte) (s : State) : (absorb d s).dataIn = s.dataIn := (absorb_frame d s).2.2.2.2.1
@[simp] theorem absorb_dataOut (d : List Byte) (s : State) : (absorb d s).dataOut = s.dataOut := (absorb_frame d s).2.2.2.2.2.1
@[simp] theorem absorb_cmdIndex (d : List Byte) (s : State) : (absorb d s).cmdIndex = s.cmdIndex := (absorb_frame d s).2.2.2.2.2.2.1
@[simp] theorem absorb_config (d : List Byte) (s : State) : (absorb d s).config = s.config := (absorb_frame d s).2.2.2.2.2.2.2

@[simp] theorem absorb_count (d : List Byte) (s : State) :
    (absorb d s).count = s.count + BitVec.ofNat 64 d.length := by
  simp only [absorb]
  split
  · simp
  · simpa using (absorbBlocks_frame (fill s) d (addCount d.length s)).1

/-- The fill level grows modulo 64, also where `COUNT` wraps (R23). -/
theorem absorb_fill (d : List Byte) (s : State) : fill (absorb d s) = (fill s + d.length) % 64 := by
  simp only [fill, absorb_count, BitVec.toNat_add, BitVec.toNat_ofNat]
  omega

/-- The transform calls of an absorption, the carried bytes and the payload being `m` (R100). -/
theorem absorb_calls (d : List Byte) (s : State) :
    (absorb d s).calls = s.calls ++ (if (carried s ++ d).length < 64 then [] else slowCalls (carried s ++ d)) := by
  have hlen : (carried s ++ d).length = fill s + d.length := by simp
  simp only [absorb]
  rw [hlen]
  split
  · simp
  · rename_i hn
    have hp := fill_lt s
    simpa [carried] using
      (absorbBlocks_spec (part := fill s) (d := d) (s := addCount d.length s) (by omega) (by omega)).2.1

/-- The state words after an absorption: `T1` folded over the whole blocks of the carried bytes and the payload. -/
theorem absorb_h (d : List Byte) (s : State) :
    (absorb d s).h = transform (t1Of s.config.transform) s.h
      (blocksOf (carried s ++ d) ((carried s ++ d).length / 64)) := by
  have hlen : (carried s ++ d).length = fill s + d.length := by simp
  by_cases hf : fill s + d.length < 64
  · have : (carried s ++ d).length / 64 = 0 := by omega
    rw [this]; simp [absorb, hf]
  · have hp := fill_lt s
    have := (absorbBlocks_spec (part := fill s) (d := d) (s := addCount d.length s) (by omega) (by omega)).1
    simpa [absorb, hf, carried] using this

/-- The bytes carried after an absorption: what is left after the whole blocks. -/
theorem absorb_carried (d : List Byte) (s : State) :
    carried (absorb d s) = (carried s ++ d).drop (64 * ((carried s ++ d).length / 64)) := by
  have hlen : (carried s ++ d).length = fill s + d.length := by simp
  have hfill : fill (absorb d s) = (carried s ++ d).length % 64 := by rw [absorb_fill, hlen]
  have hp := fill_lt s
  by_cases hf : fill s + d.length < 64
  · have h0 : (carried s ++ d).length / 64 = 0 := by omega
    have hb : (absorb d s).buf = (writeBuf (fill s) d (addCount d.length s)).buf := by simp [absorb, hf]
    have hm : (carried s ++ d).length % 64 = fill s + d.length := by omega
    simp only [h0, Nat.mul_zero, List.drop_zero]
    have hc : carried (absorb d s) = (absorb d s).buf.toList.take (fill (absorb d s)) := rfl
    rw [hc, hfill, hb, writeBuf_toList (by omega), hm, addCount_buf]
    exact List.take_left' (by simp; omega)
  · have := (absorbBlocks_spec (part := fill s) (d := d) (s := addCount d.length s) (by omega) (by omega)).2.2.1
    have hb : (absorb d s).buf = (absorbBlocks (fill s) d (addCount d.length s)).buf := by simp [absorb, hf]
    have hc : carried (absorb d s) = (absorb d s).buf.toList.take (fill (absorb d s)) := rfl
    rw [hc, hfill, hb]
    exact this

/-- The blocks of an absorption's calls, in call order. -/
theorem absorb_blocks (d : List Byte) (s : State) :
    blocksSince s (absorb d s) = blocksOf (carried s ++ d) ((carried s ++ d).length / 64) := by
  simp only [blocksSince, absorb_calls, List.drop_left]
  split
  · rename_i h
    have : (carried s ++ d).length / 64 = 0 := by omega
    rw [this]; simp
  · exact slowCalls_blocks (by omega)

/-- An empty absorption changes nothing (R98). -/
theorem absorb_nil (s : State) : absorb [] s = s := by
  have h0 : addCount 0 s = s := by simp [addCount]
  simp [absorb, fill_lt, h0, writeBuf_nil]

end Sys2Proof.Machine
end

