-- ==== Sys2Proof/Laws/Decode.lean ====
section
/-!
SUPPORT. The words of 30_encoding.md R64, what the decoder reads from word 0, and what a decoded command says of the words it
came from.
-/

namespace Sys2Proof.Machine

/-! ### Word 0 -/

@[simp] theorem encodeWord0_init256 : encodeWord0 .init256 = 0x00000000#32 := rfl
@[simp] theorem encodeWord0_init224 : encodeWord0 .init224 = 0x00000008#32 := rfl
@[simp] theorem encodeWord0_update (len : Nat) : encodeWord0 (.update len) = 0x00000001#32 := rfl
@[simp] theorem encodeWord0_final256 : encodeWord0 .final256 = 0x00000002#32 := rfl
@[simp] theorem encodeWord0_final224 : encodeWord0 .final224 = 0x0000000A#32 := rfl
@[simp] theorem encodeWord0_exportSnap : encodeWord0 .exportSnap = 0x00000003#32 := rfl
@[simp] theorem encodeWord0_importSnap (len : Nat) : encodeWord0 (.importSnap len) = 0x00000004#32 := rfl

theorem decodeHead_init256 : decodeHead 0x00000000#32 = .ok (.single .init256) := by decide
theorem decodeHead_init224 : decodeHead 0x00000008#32 = .ok (.single .init224) := by decide
theorem decodeHead_update : decodeHead 0x00000001#32 = .ok .needsLenUpdate := by decide
theorem decodeHead_final256 : decodeHead 0x00000002#32 = .ok (.single .final256) := by decide
theorem decodeHead_final224 : decodeHead 0x0000000A#32 = .ok (.single .final224) := by decide
theorem decodeHead_exportSnap : decodeHead 0x00000003#32 = .ok (.single .exportSnap) := by decide
theorem decodeHead_importSnap : decodeHead 0x00000004#32 = .ok .needsLenImport := by decide

/-! ### Commands -/

/-- Only one-word commands are decoded from word 0 alone (R62). -/
theorem decodeHead_single {w0 : W32} {i : Instr} (h : decodeHead w0 = .ok (.single i)) : (encode i).length = 1 := by
  unfold decodeHead decodeOp noVariant at h
  repeat' split at h
  all_goals cases h <;> rfl

/-- A decoded command has the words its encoding has, and they stand at the head of the port. -/
theorem decode_words {ws rest : List W32} {i : Instr} (h : decode ws = .ok (i, rest)) :
    rest = ws.drop (encode i).length ∧ ws.length = (encode i).length + rest.length := by
  unfold decode at h
  split at h
  · cases h
  · split at h
    · cases h
    · rename_i hd
      cases h
      rw [decodeHead_single hd]
      simp; omega
    · cases h
    · cases h; simp [encode]; omega
    · cases h
    · cases h; simp [encode]; omega

/-- The decoder calls word 0 illegal exactly where it is (R66), and names it. -/
theorem decode_illegal {ws : List W32} {why : Illegal} {w0 : W32} (h : decode ws = .error (.illegal why w0)) :
    ∃ rest, ws = w0 :: rest ∧ decodeHead w0 = .error why := by
  unfold decode at h
  split at h
  · cases h
  · split at h <;> cases h
    exact ⟨_, rfl, ‹_›⟩

end Sys2Proof.Machine
end

