-- ==== Sys2Proof/Laws/Commands.lean ====
section
/-!
SUPPORT. What the shared shapes of the commands and the meanings can answer, said once: the provers cite these and unfold
no meaning.
-/

namespace Sys2Proof.Machine

/-! ### The shared shapes -/

theorem whenRunning_of_running {s : State} (h : s.faultCode = .none) (k : Host.Outcome State Fault Refusal) :
    whenRunning s k = k := by
  simp [whenRunning, h]

theorem whenRunning_of_halted {s : State} (h : s.faultCode ≠ .none) (k : Host.Outcome State Fault Refusal) :
    whenRunning s k = .fault (.halted s.faultCode) := by
  simp [whenRunning, h]

/-- A command of an engine answers a next state only if the engine is not halted. -/
theorem whenRunning_next {s t : State} {k : Host.Outcome State Fault Refusal} (h : whenRunning s k = .next t) :
    s.faultCode = .none ∧ k = .next t := by
  unfold whenRunning at h
  split at h
  · exact ⟨‹_›, h⟩
  · cases h

theorem ifLive_of_live {s : State} (w : W32) (h : s.life = .live) (k : Host.Outcome State Fault Refusal) :
    ifLive w s k = k := by
  simp [ifLive, h]

theorem ifLive_of_not_live {s : State} (w : W32) (h : s.life ≠ .live) (k : Host.Outcome State Fault Refusal) :
    ifLive w s k = .next (raiseFault .notLive w s) := by
  simp [ifLive, h]

/-- UPDATE and FINAL take the fault NOT_LIVE, or run on a LIVE state (R174). -/
theorem ifLive_next {s t : State} {w : W32} {k : Host.Outcome State Fault Refusal} (h : ifLive w s k = .next t) :
    (s.life ≠ .live ∧ t = raiseFault .notLive w s) ∨ (s.life = .live ∧ k = .next t) := by
  unfold ifLive at h
  split at h
  · exact .inr ⟨‹_›, h⟩
  · cases h; exact .inl ⟨‹_›, rfl⟩

theorem withDataIn_of_available {n : Nat} {s : State} (h : n ≤ s.dataIn.length) (k : List Byte → State → State) :
    withDataIn n s k = .next (k (s.dataIn.take n) { s with dataIn := s.dataIn.drop n }) := by
  simp [withDataIn, dataInTake, h]

theorem withDataIn_of_short {n : Nat} {s : State} (h : s.dataIn.length < n) (k : List Byte → State → State) :
    withDataIn n s k = .refused .holdingForData := by
  simp [withDataIn, dataInTake, Nat.not_le.2 h]

/-- A command that takes data-in bytes has its effect only with all of them (R43). -/
theorem withDataIn_next {n : Nat} {s t : State} {k : List Byte → State → State} (h : withDataIn n s k = .next t) :
    n ≤ s.dataIn.length ∧ t = k (s.dataIn.take n) { s with dataIn := s.dataIn.drop n } := by
  by_cases hn : n ≤ s.dataIn.length
  · rw [withDataIn_of_available hn] at h; cases h; exact ⟨hn, rfl⟩
  · rw [withDataIn_of_short (by omega)] at h; cases h

/-! ### What each meaning does when its conditions hold -/

theorem exec_update_of_live {s : State} {len : Nat} (hr : s.faultCode = .none) (hl : s.life = .live)
    (hd : len ≤ s.dataIn.length) :
    exec (.update len) s = .next (absorb (s.dataIn.take len) { s with dataIn := s.dataIn.drop len }) :=
  (whenRunning_of_running hr _).trans ((ifLive_of_live _ hl _).trans (withDataIn_of_available hd _))

theorem exec_update_short {s : State} {len : Nat} (hr : s.faultCode = .none) (hl : s.life = .live)
    (hd : s.dataIn.length < len) : exec (.update len) s = .refused .holdingForData :=
  (whenRunning_of_running hr _).trans ((ifLive_of_live _ hl _).trans (withDataIn_of_short hd _))

theorem exec_final256_of_live {s : State} (hr : s.faultCode = .none) (hl : s.life = .live) :
    exec .final256 s = .next (finishMessage .sha256 s) :=
  (whenRunning_of_running hr _).trans (ifLive_of_live _ hl _)

theorem exec_final224_of_live {s : State} (hr : s.faultCode = .none) (hl : s.life = .live) :
    exec .final224 s = .next (finishMessage .sha224 s) :=
  (whenRunning_of_running hr _).trans (ifLive_of_live _ hl _)

theorem exec_exportSnap_of_initialized {s : State} (hr : s.faultCode = .none) (hl : s.life ≠ .uninit) :
    exec .exportSnap s = .next (exportSnapshot s) :=
  (whenRunning_of_running hr _).trans (if_neg hl)

theorem exec_importSnap_of_available {s : State} (hr : s.faultCode = .none) (hd : 104 ≤ s.dataIn.length) :
    exec (.importSnap 104) s = .next (loadSnapshot (s.dataIn.take 104) { s with dataIn := s.dataIn.drop 104 }) :=
  (whenRunning_of_running hr _).trans ((if_pos rfl).trans (withDataIn_of_available hd _))

theorem exec_importSnap_short {s : State} (hr : s.faultCode = .none) (hd : s.dataIn.length < 104) :
    exec (.importSnap 104) s = .refused .holdingForData :=
  (whenRunning_of_running hr _).trans ((if_pos rfl).trans (withDataIn_of_short hd _))

/-! ### What each meaning can answer -/

theorem exec_init256_next {s t : State} (h : exec .init256 s = .next t) :
    s.faultCode = .none ∧ t = startMessage .sha256 s := by
  have ⟨hr, hk⟩ := whenRunning_next h
  cases hk; exact ⟨hr, rfl⟩

theorem exec_init224_next {s t : State} (h : exec .init224 s = .next t) :
    s.faultCode = .none ∧ t = startMessage .sha224 s := by
  have ⟨hr, hk⟩ := whenRunning_next h
  cases hk; exact ⟨hr, rfl⟩

theorem exec_update_next {len : Nat} {s t : State} (h : exec (.update len) s = .next t) :
    s.faultCode = .none ∧
    ((s.life ≠ .live ∧ t = raiseFault .notLive (encodeWord0 (.update len)) s) ∨
     (s.life = .live ∧ len ≤ s.dataIn.length ∧
      t = absorb (s.dataIn.take len) { s with dataIn := s.dataIn.drop len })) := by
  have ⟨hr, hk⟩ := whenRunning_next h
  refine ⟨hr, ?_⟩
  rcases ifLive_next hk with h1 | ⟨hl, hd⟩
  · exact .inl h1
  · exact .inr ⟨hl, withDataIn_next hd⟩

theorem exec_final256_next {s t : State} (h : exec .final256 s = .next t) :
    s.faultCode = .none ∧
    ((s.life ≠ .live ∧ t = raiseFault .notLive (encodeWord0 .final256) s) ∨
     (s.life = .live ∧ t = finishMessage .sha256 s)) := by
  have ⟨hr, hk⟩ := whenRunning_next h
  refine ⟨hr, ?_⟩
  rcases ifLive_next hk with h1 | ⟨hl, hd⟩
  · exact .inl h1
  · cases hd; exact .inr ⟨hl, rfl⟩

theorem exec_final224_next {s t : State} (h : exec .final224 s = .next t) :
    s.faultCode = .none ∧
    ((s.life ≠ .live ∧ t = raiseFault .notLive (encodeWord0 .final224) s) ∨
     (s.life = .live ∧ t = finishMessage .sha224 s)) := by
  have ⟨hr, hk⟩ := whenRunning_next h
  refine ⟨hr, ?_⟩
  rcases ifLive_next hk with h1 | ⟨hl, hd⟩
  · exact .inl h1
  · cases hd; exact .inr ⟨hl, rfl⟩

theorem exec_exportSnap_next {s t : State} (h : exec .exportSnap s = .next t) :
    s.faultCode = .none ∧
    ((s.life = .uninit ∧ t = raiseFault .uninitRead (encodeWord0 .exportSnap) s) ∨
     (s.life ≠ .uninit ∧ t = exportSnapshot s)) := by
  have ⟨hr, hk⟩ := whenRunning_next h
  refine ⟨hr, ?_⟩
  split at hk
  · cases hk; exact .inl ⟨‹_›, rfl⟩
  · cases hk; exact .inr ⟨‹_›, rfl⟩

theorem exec_importSnap_next {len : Nat} {s t : State} (h : exec (.importSnap len) s = .next t) :
    s.faultCode = .none ∧
    ((len ≠ Config.snapSize ∧ t = raiseFault .snapshotSize (encodeWord0 (.importSnap len)) s) ∨
     (len = Config.snapSize ∧ Config.snapSize ≤ s.dataIn.length ∧
      t = loadSnapshot (s.dataIn.take Config.snapSize) { s with dataIn := s.dataIn.drop Config.snapSize })) := by
  have ⟨hr, hk⟩ := whenRunning_next h
  refine ⟨hr, ?_⟩
  split at hk
  · rename_i hlen
    subst hlen
    exact .inr ⟨rfl, withDataIn_next hk⟩
  · cases hk; exact .inl ⟨‹_›, rfl⟩

/-- No command of a halted engine has a step (R172, R178). -/
theorem exec_of_halted {s : State} (h : s.faultCode ≠ .none) (i : Instr) :
    exec i s = .fault (.halted s.faultCode) := by
  cases i <;> exact whenRunning_of_halted h _

/-! ### The step -/

/-- What the engine finds on the port of an engine that is not halted. -/
theorem fetch_of_running {s : State} (h : s.faultCode = .none) :
    fetch s = match decode s.cmdPort with
      | .ok (i, rest)          => .command i (s.cmdPort.length - rest.length)
      | .error .noWord         => .waiting
      | .error .noLen          => .needsLen
      | .error (.illegal _ w0) => .illegal w0 := by
  unfold fetch
  exact if_neg (fun hn => hn h)

/-- What one step can do: take an illegal word 0, or run the decoded command on the state without its words. -/
theorem step_next {s t : State} (h : step s = .next t) :
    s.faultCode = .none ∧
    ((∃ w0 rest why, s.cmdPort = w0 :: rest ∧ decodeHead w0 = .error why ∧ t = takeIllegal w0 s) ∨
     (∃ i rest, decode s.cmdPort = .ok (i, rest) ∧ exec i (takeWords (encode i).length s) = .next t)) := by
  by_cases hr : s.faultCode = .none
  · refine ⟨hr, ?_⟩
    unfold step at h
    rw [fetch_of_running hr] at h
    cases hd : decode s.cmdPort with
    | ok p =>
      obtain ⟨i, rest⟩ := p
      rw [hd] at h
      have := decode_words hd
      exact .inr ⟨i, rest, rfl, by rw [show (encode i).length = s.cmdPort.length - rest.length by omega]; exact h⟩
    | error e =>
      rw [hd] at h
      cases e with
      | noWord => cases h
      | noLen => cases h
      | illegal why w0 =>
        obtain ⟨rest, hp, hw⟩ := decode_illegal hd
        cases h
        exact .inl ⟨w0, rest, why, hp, hw, rfl⟩
  · simp [step, fetch, hr] at h

theorem step_of_halted {s : State} (h : s.faultCode ≠ .none) : step s = .fault (.halted s.faultCode) := by
  simp [step, fetch, h]

end Sys2Proof.Machine
end

