-- ==== Sys2Proof/Laws/Snapshot.lean ====
section
/-!
SUPPORT. The words of a snapshot as bytes (20_memory.md R48), and what reading them back gives.
-/

namespace Sys2Proof.Machine

@[simp] theorem be32_length (w : W32) : (be32 w).length = 4 := rfl
@[simp] theorem be64_length (v : W64) : (be64 v).length = 8 := rfl

@[simp] theorem snapWord32_length (e : Endian) (w : W32) : (snapWord32 e w).length = 4 := by cases e <;> rfl
@[simp] theorem snapWord64_length (e : Endian) (v : W64) : (snapWord64 e v).length = 8 := by cases e <;> rfl

/-- A word's bytes stand for the word (R48, R49). -/
theorem natOfBytes_snapWord32 (e : Endian) (w : W32) : natOfBytes e (snapWord32 e w) = w.toNat := by
  have := w.isLt
  cases e <;>
    simp only [natOfBytes, snapWord32, be32, List.reverse_cons, List.reverse_nil, List.nil_append, List.cons_append,
      natOfBytesBE, BitVec.extractLsb'_toNat, Nat.shiftRight_eq_div_pow] <;>
    omega

theorem natOfBytes_snapWord64 (e : Endian) (v : W64) : natOfBytes e (snapWord64 e v) = v.toNat := by
  have := v.isLt
  cases e <;>
    simp only [natOfBytes, snapWord64, be64, List.reverse_cons, List.reverse_nil, List.nil_append, List.cons_append,
      natOfBytesBE, BitVec.extractLsb'_toNat, Nat.shiftRight_eq_div_pow] <;>
    omega

/-- The words of `H` in a snapshot are 32 bytes. -/
theorem snapWords_length (e : Endian) (ws : List W32) : (ws.flatMap (snapWord32 e)).length = 4 * ws.length := by
  induction ws with
  | nil => rfl
  | cons w ws ih => simp [List.flatMap_cons, ih]; omega

theorem snapHash_length (e : Endian) (h : Hash) : (h.toList.flatMap (snapWord32 e)).length = 32 := by
  rw [snapWords_length, Vector.length_toList]

/-- A snapshot is `SNAP_SIZE` bytes (R48). -/
theorem snap_length (e : Endian) (h : Hash) (count : W64) (buf : Block) : (snap e h count buf).length = 104 := by
  simp only [snap, List.length_append, snapWords_length, snapWord64_length, Vector.length_toList]

/-- `D` is 32 bytes (R116). -/
theorem digestBytes_length (h : Hash) : (digestBytes h).length = 32 := by
  have : ∀ ws : List W32, (ws.flatMap be32).length = 4 * ws.length := fun ws => by
    induction ws with
    | nil => rfl
    | cons w ws ih => simp [List.flatMap_cons, ih]; omega
  simp [digestBytes, this]

end Sys2Proof.Machine
end

