-- ==== Sys2Proof/Laws/Final.lean ====
section
/-!
SUPPORT. Absorptions one after another (41_update.md R101), the suffix FINAL absorbs (42_final.md R114), and what FINAL leaves
(R118).
-/

namespace Sys2Proof.Machine

/-! ### Two absorptions -/

/-- Cutting a sequence into blocks in two goes, the second on what the first left and more bytes. -/
theorem blocksOf_append (m b : List Byte) :
    let rest := m.drop (64 * (m.length / 64))
    blocksOf (m ++ b) ((m ++ b).length / 64) =
      blocksOf m (m.length / 64) ++ blocksOf (rest ++ b) ((rest ++ b).length / 64) ∧
    (m ++ b).drop (64 * ((m ++ b).length / 64)) = (rest ++ b).drop (64 * ((rest ++ b).length / 64)) := by
  intro rest
  have hr : rest.length = m.length % 64 := by simp only [rest, List.length_drop]; omega
  have hq : (m ++ b).length / 64 = m.length / 64 + (rest ++ b).length / 64 := by
    simp only [List.length_append, hr]; omega
  have hdrop : (m ++ b).drop (64 * (m.length / 64)) = rest ++ b := by
    rw [List.drop_append_of_le_length (by omega)]
  constructor
  · rw [hq, blocksOf_add, hdrop, blocksOf_append_left _ (by omega)]
  · rw [hq, Nat.mul_add, ← List.drop_drop, hdrop]

theorem absorb_absorb_h (a b : List Byte) (s : State) :
    (absorb b (absorb a s)).h = transform (t1Of s.config.transform) s.h
      (blocksOf (carried s ++ a ++ b) ((carried s ++ a ++ b).length / 64)) := by
  rw [absorb_h, absorb_config, absorb_h, absorb_carried, (blocksOf_append (carried s ++ a) b).1, transform_append]

theorem absorb_absorb_carried (a b : List Byte) (s : State) :
    carried (absorb b (absorb a s)) =
      (carried s ++ a ++ b).drop (64 * ((carried s ++ a ++ b).length / 64)) := by
  rw [absorb_carried, absorb_carried, (blocksOf_append (carried s ++ a) b).2]

/-- What was called since `s`, through a state on the way. -/
theorem blocksSince_trans {s t u : State} {x y : List TransformCall} (ht : t.calls = s.calls ++ x)
    (hu : u.calls = t.calls ++ y) : blocksSince s u = blocksSince s t ++ blocksSince t u := by
  simp [blocksSince, ht, hu]

/-! ### The suffix -/

/-- The padding and the length suffix of a state (R113, R114). -/
def suffixBytes (s : State) : List Byte := padBytes (padLen (fill s)) ++ be64 (bitLength s.count)

theorem padLen_pos {n : Nat} (h : n < 64) : 1 ≤ padLen n := by
  unfold padLen Config.padTarget Config.blockSize
  split <;> omega

theorem padBytes_length {n : Nat} (h : 1 ≤ n) : (padBytes n).length = n := by
  simp [padBytes]; omega

/-- The carried bytes and the suffix are whole blocks: one if `index < 56`, two if not. -/
theorem suffix_length (s : State) :
    (carried s ++ suffixBytes s).length = if fill s < 56 then 64 else 128 := by
  have := fill_lt s
  have hp := padBytes_length (padLen_pos this)
  simp only [suffixBytes, List.length_append, carried_length, hp, be64_length]
  unfold padLen Config.padTarget Config.blockSize
  split <;> omega

theorem absorbSuffix_h (s : State) :
    (absorbSuffix s).h = transform (t1Of s.config.transform) s.h
      (blocksOf (carried s ++ suffixBytes s) ((carried s ++ suffixBytes s).length / 64)) := by
  unfold absorbSuffix suffixBytes
  rw [absorb_absorb_h, List.append_assoc]

/-- Nothing is carried after the suffix: every byte has been transformed (R115). -/
theorem absorbSuffix_carried (s : State) : carried (absorbSuffix s) = [] := by
  have hl := suffix_length s
  unfold absorbSuffix
  rw [absorb_absorb_carried, List.append_assoc]
  change List.drop (64 * ((carried s ++ suffixBytes s).length / 64)) (carried s ++ suffixBytes s) = []
  rw [hl, List.drop_eq_nil_iff, hl]
  split <;> omega

/-! ### FINAL -/

theorem absorbSuffix_frame (s : State) :
    let t := absorbSuffix s
    t.life = s.life ∧ t.faultCode = s.faultCode ∧ t.faultWord = s.faultWord ∧ t.cmdPort = s.cmdPort ∧
    t.dataIn = s.dataIn ∧ t.dataOut = s.dataOut ∧ t.cmdIndex = s.cmdIndex ∧ t.config = s.config := by
  simp [absorbSuffix]

/-- What FINAL leaves (R116, R118): the output on data-out, the HashState zero, and the rest as it was but for the history and the
draw counter. -/
theorem finishMessage_spec (v : Variant) (s : State) :
    let t := finishMessage v s
    t.dataOut = s.dataOut ++ (digestBytes (absorbSuffix s).h).take (digestSize v) ∧
    t.h = Vector.replicate 8 0#32 ∧ t.count = 0#64 ∧ t.buf = Vector.replicate 64 0#8 ∧ t.life = .wiped ∧
    t.faultCode = s.faultCode ∧ t.faultWord = s.faultWord ∧ t.cmdPort = s.cmdPort ∧ t.dataIn = s.dataIn ∧
    t.cmdIndex = s.cmdIndex ∧ t.config = s.config ∧ t.calls = (absorbSuffix s).calls := by
  have := absorbSuffix_frame s
  simp only [finishMessage]
  simp_all

end Sys2Proof.Machine
end

