-- ==== Sys2Proof/Laws/PerInstr.lean ====
section
/-!
SUPPORT. Facts about every instruction as syntax, one lemma per constructor. Family WordCount: an instruction's words begin
with its word 0, which alone says how many they are (30_encoding.md R60, R62).
-/

namespace Sys2Proof.Laws.WordCount

open Sys2Proof.Machine

/-- The instruction's words are its word 0 and as many more as word 0 announces. -/
def Statement (i : Instr) : Prop :=
  ∃ more, encode i = encodeWord0 i :: more ∧ commandLength (encodeWord0 i) = more.length + 1

theorem init256 : Statement .init256 := ⟨[], rfl, by decide⟩
theorem init224 : Statement .init224 := ⟨[], rfl, by decide⟩
theorem update (len : Nat) : Statement (.update len) := ⟨[BitVec.ofNat 32 len], rfl, (by simp [commandLength, decodeHead_update])⟩
theorem final256 : Statement .final256 := ⟨[], rfl, by decide⟩
theorem final224 : Statement .final224 := ⟨[], rfl, by decide⟩
theorem exportSnap : Statement .exportSnap := ⟨[], rfl, by decide⟩
theorem importSnap (len : Nat) : Statement (.importSnap len) := ⟨[BitVec.ofNat 32 len], rfl, (by simp [commandLength, decodeHead_importSnap])⟩

end Sys2Proof.Laws.WordCount
end

