-- ==== Sys2Proof/Laws/Run.lean ====
section
/-!
SUPPORT. What a step takes and emits, what one event of a run does (70_reset_and_hazards.md R204), and that no meaning reads the
command port.
-/

namespace Sys2Proof.Machine

/-! ### Streams -/

@[simp] theorem goneFrom_append {α : Type} (gone left : List α) : goneFrom (gone ++ left) left = gone := by
  simp [goneFrom]

@[simp] theorem goneFrom_self {α : Type} (l : List α) : goneFrom l l = [] := by simp [goneFrom]

theorem goneFrom_of_eq {α : Type} {before gone left : List α} (h : before = gone ++ left) : goneFrom before left = gone := by
  rw [h, goneFrom_append]

/-- What the meanings do to the three streams and to the command port (R41, R42). -/
theorem exec_streams {i : Instr} {s t : State} (h : exec i s = .next t) :
    t.cmdPort = s.cmdPort ∧ t.cmdIndex = s.cmdIndex ∧ (∃ taken, s.dataIn = taken ++ t.dataIn) ∧
    ∃ emitted, t.dataOut = s.dataOut ++ emitted := by
  have drop (n : Nat) : ∃ taken, s.dataIn = taken ++ s.dataIn.drop n := ⟨s.dataIn.take n, (List.take_append_drop n _).symm⟩
  cases i with
  | init256 => obtain ⟨-, rfl⟩ := exec_init256_next h; exact ⟨rfl, rfl, ⟨[], rfl⟩, [], by simp⟩
  | init224 => obtain ⟨-, rfl⟩ := exec_init224_next h; exact ⟨rfl, rfl, ⟨[], rfl⟩, [], by simp⟩
  | update len =>
    obtain ⟨-, ⟨-, rfl⟩ | ⟨-, -, rfl⟩⟩ := exec_update_next h
    · exact ⟨rfl, rfl, ⟨[], rfl⟩, [], by simp⟩
    · exact ⟨by simp, by simp, by simpa using drop len, [], by simp⟩
  | final256 =>
    obtain ⟨-, ⟨-, rfl⟩ | ⟨-, rfl⟩⟩ := exec_final256_next h
    · exact ⟨rfl, rfl, ⟨[], rfl⟩, [], by simp⟩
    · obtain ⟨o, -, -, -, -, -, -, p, d, n, -, -⟩ := finishMessage_spec .sha256 s
      exact ⟨p, n, ⟨[], d.symm⟩, _, o⟩
  | final224 =>
    obtain ⟨-, ⟨-, rfl⟩ | ⟨-, rfl⟩⟩ := exec_final224_next h
    · exact ⟨rfl, rfl, ⟨[], rfl⟩, [], by simp⟩
    · obtain ⟨o, -, -, -, -, -, -, p, d, n, -, -⟩ := finishMessage_spec .sha224 s
      exact ⟨p, n, ⟨[], d.symm⟩, _, o⟩
  | exportSnap =>
    obtain ⟨-, ⟨-, rfl⟩ | ⟨-, rfl⟩⟩ := exec_exportSnap_next h
    · exact ⟨rfl, rfl, ⟨[], rfl⟩, [], by simp⟩
    · exact ⟨by simp, by simp, ⟨[], by simp⟩, _, exportSnapshot_dataOut s⟩
  | importSnap len =>
    obtain ⟨-, ⟨-, rfl⟩ | ⟨-, -, rfl⟩⟩ := exec_importSnap_next h
    · exact ⟨rfl, rfl, ⟨[], rfl⟩, [], by simp⟩
    · exact ⟨by simp, by simp, by simpa using drop Config.snapSize, [], by simp⟩

/-- What a step does to them. -/
theorem step_streams {s t : State} (h : step s = .next t) :
    (∃ words, s.cmdPort = words ++ t.cmdPort ∧ t.cmdIndex = s.cmdIndex + words.length) ∧
    (∃ taken, s.dataIn = taken ++ t.dataIn) ∧ ∃ emitted, t.dataOut = s.dataOut ++ emitted := by
  obtain ⟨-, ⟨w0, rest, why, hp, -, rfl⟩ | ⟨i, rest, hd, he⟩⟩ := step_next h
  · exact ⟨⟨[w0], by simp [takeIllegal, hp], rfl⟩, ⟨[], rfl⟩, [], by simp [takeIllegal]⟩
  · obtain ⟨p, n, d, o⟩ := exec_streams he
    have hw := decode_words hd
    refine ⟨⟨s.cmdPort.take (encode i).length, ?_, ?_⟩, d, o⟩
    · rw [p, takeWords_cmdPort, List.take_append_drop]
    · rw [n, takeWords_cmdIndex, List.length_take, Nat.min_eq_left (by omega)]

/-! ### The meanings do not read the command port -/

/-- The state with other command words pending and counted. -/
def setPort (ws : List W32) (n : Nat) (s : State) : State := { s with cmdPort := ws, cmdIndex := n }

theorem absorb_setPort (ws : List W32) (n : Nat) (d : List Byte) (s : State) :
    absorb d (setPort ws n s) = setPort ws n (absorb d s) := by
  simp only [absorb, absorbBlocks, show fill (setPort ws n s) = fill s from rfl]
  split
  · rfl
  · split <;> rfl

theorem finishMessage_setPort (v : Variant) (ws : List W32) (n : Nat) (s : State) :
    finishMessage v (setPort ws n s) = setPort ws n (finishMessage v s) := by
  have hs : absorbSuffix (setPort ws n s) = setPort ws n (absorbSuffix s) := by
    simp only [absorbSuffix, show fill (setPort ws n s) = fill s from rfl, show (setPort ws n s).count = s.count from rfl,
      absorb_setPort]
  simp only [finishMessage, hs]
  rfl

/-- A command does the same whatever words are pending after its own. -/
theorem exec_setPort {i : Instr} {s t : State} (ws : List W32) (n : Nat) (h : exec i s = .next t) :
    exec i (setPort ws n s) = .next (setPort ws n t) := by
  cases i with
  | init256 => obtain ⟨hr, rfl⟩ := exec_init256_next h; exact whenRunning_of_running hr _
  | init224 => obtain ⟨hr, rfl⟩ := exec_init224_next h; exact whenRunning_of_running hr _
  | update len =>
    obtain ⟨hr, ⟨hl, rfl⟩ | ⟨hl, hd, rfl⟩⟩ := exec_update_next h
    · exact (whenRunning_of_running hr _).trans (ifLive_of_not_live (s := setPort ws n s) _ hl _)
    · rw [exec_update_of_live (s := setPort ws n s) hr hl hd, ← absorb_setPort]; rfl
  | final256 =>
    obtain ⟨hr, ⟨hl, rfl⟩ | ⟨hl, rfl⟩⟩ := exec_final256_next h
    · exact (whenRunning_of_running hr _).trans (ifLive_of_not_live (s := setPort ws n s) _ hl _)
    · rw [exec_final256_of_live (s := setPort ws n s) hr hl, finishMessage_setPort]
  | final224 =>
    obtain ⟨hr, ⟨hl, rfl⟩ | ⟨hl, rfl⟩⟩ := exec_final224_next h
    · exact (whenRunning_of_running hr _).trans (ifLive_of_not_live (s := setPort ws n s) _ hl _)
    · rw [exec_final224_of_live (s := setPort ws n s) hr hl, finishMessage_setPort]
  | exportSnap =>
    obtain ⟨hr, ⟨hl, rfl⟩ | ⟨hl, rfl⟩⟩ := exec_exportSnap_next h
    · exact (whenRunning_of_running hr _).trans (if_pos hl)
    · exact exec_exportSnap_of_initialized (s := setPort ws n s) hr hl
  | importSnap len =>
    obtain ⟨hr, ⟨hl, rfl⟩ | ⟨rfl, hd, rfl⟩⟩ := exec_importSnap_next h
    · exact (whenRunning_of_running hr _).trans (if_neg hl)
    · exact exec_importSnap_of_available (s := setPort ws n s) hr hd

/-! ### Events -/

@[simp] theorem events_nil (r : Run) : Run.events [] r = .next r := rfl

@[simp] theorem events_hostActs (act : HostAct) (es : List RunEvent) (r : Run) :
    Run.events (.hostActs act :: es) r = Run.events es (r.acted act) := rfl

/-- A step of a run, when the engine has one. -/
theorem events_engineStep {r : Run} {t : State} (h : step r.state = .next t) (es : List RunEvent) :
    Run.events (.engineStep :: es) r = Run.events es (r.stepped t) := by
  simp only [Run.events, Run.event, h]

/-- What one event of a run can be. -/
theorem event_next {e : RunEvent} {r r' : Run} (h : r.event e = .next r') :
    (∃ act, e = .hostActs act ∧ r' = r.acted act) ∨
    (e = .engineStep ∧ ∃ t, step r.state = .next t ∧ r' = r.stepped t) := by
  cases e with
  | hostActs act => cases h; exact .inl ⟨act, rfl, rfl⟩
  | engineStep =>
    simp only [Run.event] at h
    split at h
    · rename_i t ht; cases h; exact .inr ⟨rfl, t, ht, rfl⟩
    · cases h
    · cases h

/-- What holds where a run begins and is kept by every event holds of every run. -/
theorem events_induction {P : Run → Prop} (hstep : ∀ e r r', P r → r.event e = .next r' → P r') :
    ∀ (es : List RunEvent) (r r' : Run), P r → Run.events es r = .next r' → P r' := by
  intro es
  induction es with
  | nil => intro r r' hp h; cases h; exact hp
  | cons e es ih =>
    intro r r' hp h
    simp only [Run.events] at h
    split at h
    · rename_i r1 he; exact ih _ _ (hstep _ _ _ hp he) h
    · cases h
    · cases h

end Sys2Proof.Machine
end

