-- ==== Sys2Proof/Tests/Slice0.lean ====
section
/-!
SUPPORT. The model's own tests. Expected values are the vectors of 95_test_vectors.md (V1 to V40, programs P1 to P5) and words
written out from 30_encoding.md R64; the comment of each test names its source. The second half shows, for each statement that has
hypotheses, a concrete state and operands that meet them.
-/

open Sys2Proof Sys2Proof.Machine

namespace Sys2Proof.Tests

set_option Elab.async false

/-! ### Helpers -/

/-- `len` bytes of a number written in hex, most significant first. -/
def hex (n : Nat) : Nat → List Byte
  | 0       => []
  | len + 1 => BitVec.ofNat 8 (n / 256 ^ len) :: hex n len

/-- "abc". -/
def abc : List Byte := [0x61#8, 0x62#8, 0x63#8]

/-- The bytes 0, 1, 2, ... -/
def counting (n : Nat) : List Byte := (List.range n).map (BitVec.ofNat 8)

/-- A LIVE state of SHA-256 with a count, the first bytes of `BUF`, and pending data-in. -/
def liveState (count : Nat) (buf dataIn : List Byte) : State :=
  { State.reset with h := iv256, count := BitVec.ofNat 64 count, buf := blockAt buf 0, life := .live, dataIn := dataIn }

/-- A WIPED state. -/
def wipedState : State := { State.reset with life := .wiped }

/-- A halted state: reset, then the illegal word 0x00000010. -/
def haltedState : State := { State.reset with faultCode := .illegalCmd, faultWord := 0x00000010#32, cmdIndex := 1 }

/-- The state with command words pending. -/
def withPort (ws : List W32) (s : State) : State := { s with cmdPort := ws }

/-- What `f` sees of the next state, if there is one. -/
def see {α : Type} (f : State → α) (o : Host.Outcome State Fault Refusal) : Option α :=
  match o with
  | .next t    => some (f t)
  | .fault _   => none
  | .refused _ => none

/-- The fault registers, STATUS and the streams. -/
def faultView (t : State) : FaultCode × W32 × W32 × List Byte × List Byte :=
  (t.faultCode, t.faultWord, t.status, t.dataIn, t.dataOut)

/-! ### Well-formedness -/

/-- R63: the largest LEN fits, the next does not. -/
theorem test_update_len_too_large : (Instr.update (2 ^ 32 - 1)).wellFormed = true ∧ (Instr.update (2 ^ 32)).wellFormed = false := by
  decide

/-- R63, for IMPORT; a LEN that is not 104 is still a well-formed command (R66). -/
theorem test_import_len_too_large :
    (Instr.importSnap 103).wellFormed = true ∧ (Instr.importSnap (2 ^ 32)).wellFormed = false := by decide

/-! ### Decoding: words written out bit by bit from R61 and R64 (V10) -/

theorem test_decode_init256 : decode [0b0000_0000_0000_0000_0000_0000_0000_0000#32] = .ok (.init256, []) := by decide
theorem test_decode_init224 : decode [0b0000_0000_0000_0000_0000_0000_0000_1000#32] = .ok (.init224, []) := by decide
theorem test_decode_update :
    decode [0b0000_0000_0000_0000_0000_0000_0000_0001#32, 0xFFFFFFFF#32, 0x00000002#32] =
      .ok (.update 4294967295, [0x00000002#32]) := by decide +kernel
theorem test_decode_final256 : decode [0b0000_0000_0000_0000_0000_0000_0000_0010#32] = .ok (.final256, []) := by decide
theorem test_decode_final224 : decode [0b0000_0000_0000_0000_0000_0000_0000_1010#32] = .ok (.final224, []) := by decide
theorem test_decode_export : decode [0b0000_0000_0000_0000_0000_0000_0000_0011#32] = .ok (.exportSnap, []) := by decide
theorem test_decode_import :
    decode [0b0000_0000_0000_0000_0000_0000_0000_0100#32, 0x00000067#32] = .ok (.importSnap 103, []) := by decide +kernel

/-- V11, with the clause of R66 each word falls under. -/
theorem test_decode_illegal :
    [0x00000005#32, 0x00000006#32, 0x00000007#32, 0x0000000D#32, 0x0000000E#32, 0x0000000F#32].map decodeHead =
      List.replicate 6 (.error .reservedOp) ∧
    [0x00000009#32, 0x0000000B#32, 0x0000000C#32].map decodeHead = List.replicate 3 (.error .variantNotAllowed) ∧
    [0x00000010#32, 0x80000002#32, 0xFFFFFFFF#32].map decodeHead = List.replicate 3 (.error .reservedBits) := by
  decide +kernel

/-- R64: word 1 of a format-L command is bits 63 to 32 of the row. -/
theorem test_decodeTableWord :
    decodeTableWord 64 0x0000006800000004 = some (.importSnap 104) ∧ decodeTableWord 32 0x00000001 = some (.update 0) ∧
    decodeTableWord 32 0x0000000A = some .final224 ∧ decodeTableWord 32 0x0000000B = none := by decide +kernel

/-! ### The first step after reset -/

/-- V12: INIT.256 as the first command after reset. -/
theorem test_first_step_init256 :
    see (fun t => (t.h, t.count, t.status, t.cmdPort, t.cmdIndex)) (step (State.reset.withFetchWord 32 0x00000000)) =
      some (#v[0x6a09e667#32, 0xbb67ae85#32, 0x3c6ef372#32, 0xa54ff53a#32,
               0x510e527f#32, 0x9b05688c#32, 0x1f83d9ab#32, 0x5be0cd19#32], 0#64, 0x00000001#32, [], 1) := by decide +kernel

/-- V15, V40: UPDATE 0 as the first command after reset. -/
theorem test_first_step_update :
    see faultView (step (State.reset.withFetchWord 32 0x00000001)) =
      some (.notLive, 0x00000001#32, 0x00000120#32, [], []) := by decide +kernel

/-- V40: an illegal word on a LIVE state; its LEN word is not taken. -/
theorem test_illegal_word_on_live :
    see (fun t => (t.faultCode, t.faultWord, t.status, t.cmdPort))
      (step (withPort [0x00000009#32, 0x00000003#32] (liveState 0 [] []))) =
      some (.illegalCmd, 0x00000009#32, 0x00000111#32, [0x00000003#32]) := by decide +kernel

/-- V40: a halted engine examines nothing. -/
theorem test_halted_has_no_step : step (withPort [0x00000000#32] haltedState) = .fault (.halted .illegalCmd) := by rfl

/-! ### INIT -/

/-- V12, last row. -/
theorem test_init224_of_live :
    see (fun t => (t.h, t.count, t.status, t.buf == blockAt abc 0)) (exec .init224 (liveState 10 abc [])) =
      some (#v[0xc1059ed8#32, 0x367cd507#32, 0x3070dd17#32, 0xf70e5939#32,
               0xffc00b31#32, 0x68581511#32, 0x64f98fa7#32, 0xbefa4fa4#32], 0#64, 0x00000001#32, true) := by decide +kernel

/-! ### UPDATE -/

/-- V14: COUNT wraps, and the buffer of zeros is transformed (V21). -/
theorem test_update_count_wrap :
    see (fun t => (t.count, fill t, t.h, t.calls)) (exec (.update 1) (liveState (2 ^ 64 - 1) [] [0x00#8])) =
      some (0#64, 0, #v[0xda5698be#32, 0x17b9b469#32, 0x62335799#32, 0x779fbeca#32,
                        0x8ce5d491#32, 0xc0d26243#32, 0xbafef9ea#32, 0x1837a9d8#32],
        [{ src := .buf, blocks := [Vector.replicate 64 0#8] }]) := by decide +kernel

/-- P5, V22: 200 bytes from an empty buffer: two calls, of one and of two blocks, and 8 bytes carried. -/
theorem test_update_multi_block :
    see (fun t => (t.h, t.calls.map fun c => (c.src, c.blocks.length)))
      (exec (.update 200) (liveState 0 [] (counting 200))) =
      some (#v[0x2bed68b9#32, 0x9987cae4#32, 0x8183b2b0#32, 0x49d393d0#32,
               0x050868e4#32, 0xe8ba3730#32, 0xe9112b08#32, 0x765929b7#32], [(.buf, 1), (.data, 2)]) ∧
    see (fun t => (t.count, carried t)) (exec (.update 200) (liveState 0 [] (counting 200))) =
      some (200#64, hex 0xc0c1c2c3c4c5c6c7 8) := by decide +kernel

/-! ### FINAL -/

/-- V2, V9: the digest of "abc" under SHA-256, and the wipe. -/
theorem test_final256_abc :
    see (fun t => (t.dataOut, t.status, t.h == Vector.replicate 8 0#32, t.count, t.buf == Vector.replicate 64 0#8))
      (exec .final256 (liveState 3 abc [])) =
      some (hex 0xba7816bf8f01cfea414140de5dae2223b00361a396177a9cb410ff61f20015ad 32, 0x00000002#32, true, 0#64, true) := by
  decide +kernel

/-- V6: 56 bytes carried take two blocks of suffix. -/
theorem test_final256_two_blocks :
    see (fun t => (t.dataOut, t.calls.map fun c => (c.src, c.blocks.length)))
      (exec .final256 (liveState 56 (List.replicate 56 0x61#8) [])) =
      some (hex 0xb35439a4ac6f0948b6d6f9e3c6af0f5f590ce20f1bde7090ef7970686ec6738a 32, [(.buf, 1), (.buf, 1)]) := by
  decide +kernel

/-- V4: the digest of "abc" under SHA-224. -/
theorem test_final224_abc :
    see (fun t => t.dataOut) (exec .final224 { liveState 3 abc [] with h := iv224 }) =
      some (hex 0x23097d223405d8228642a477bda255b32aadbce4bda0b3f7e36c9da7 28) := by decide +kernel

/-- V40: FINAL.224 of a WIPED state faults, with no output. -/
theorem test_final224_of_wiped :
    see faultView (exec .final224 wipedState) = some (.notLive, 0x0000000A#32, 0x00000122#32, [], []) := by decide +kernel

/-! ### EXPORT and IMPORT -/

/-- V30, both byte orders. -/
theorem test_export_abc :
    see (fun t => (t.dataOut.take 43, t.dataOut.length)) (exec .exportSnap (liveState 3 abc [])) =
      some (hex 0x67e6096a85ae67bb72f36e3c3af54fa57f520e518c68059babd9831f19cde05b0300000000000000616263 43, 104) ∧
    see (fun t => t.dataOut.take 43)
      (exec .exportSnap { liveState 3 abc [] with config := { snapEndian := .big, transform := .reference } }) =
      some (hex 0x6a09e667bb67ae853c6ef372a54ff53a510e527f9b05688c1f83d9ab5be0cd190000000000000003616263 43) := by
  decide +kernel

/-- V34: EXPORT of an UNINIT state. -/
theorem test_export_of_uninit :
    see faultView (exec .exportSnap State.reset) = some (.uninitRead, 0x00000003#32, 0x00000130#32, [], []) := by decide +kernel

/-- V31: the snapshot of V30 with zeros for its draws. -/
def abcSnapshot : List Byte :=
  hex 0x67e6096a85ae67bb72f36e3c3af54fa57f520e518c68059babd9831f19cde05b0300000000000000616263 43 ++ List.replicate 61 0x00#8

theorem test_import_abc :
    see (fun t => (t.h == iv256, t.count, carried t, t.status, t.dataIn))
      (exec (.importSnap 104) { State.reset with dataIn := abcSnapshot ++ abc }) =
      some (true, 3#64, abc, 0x00000001#32, abc) := by decide +kernel

/-- V32, V40: a wrong size is refused before a data-in byte is taken. -/
theorem test_import_size :
    (∀ n ∈ [0, 103, 105], see faultView (exec (.importSnap n) { State.reset with dataIn := abc }) =
      some (.snapshotSize, 0x00000004#32, 0x00000140#32, abc, [])) ∧
    see (fun t => t.status) (exec (.importSnap 200) (liveState 0 [] [])) = some 0x00000141#32 := by decide +kernel

/-! ### Shared operations -/

/-- V16: the padding length, from index 0 to index 63. -/
theorem test_padLen :
    (List.range 64).map padLen = (List.range 56).map (56 - ·) ++ [64, 63, 62, 61, 60, 59, 58, 57] := by decide

/-- V19: `bit_length` wraps. -/
theorem test_bitLength_wraps :
    bitLength 0x2000000000000000#64 = 0#64 ∧ bitLength 0x2000000000000003#64 = 24#64 := by decide

/-! ### Runs -/

/-- The one-shot SHA-256 of "abc" (P1). -/
def oneShot : List (Instr × List Byte) := [(.init256, []), (.update 3, abc), (.final256, [])]

/-- A run from reset in which the host issues `oneShot`, supplies its payload, and then `more` happens. -/
def oneShotRun (more : List RunEvent) : Option Run :=
  match Run.events (.hostActs (.issueWords (programOf oneShot).words) :: .hostActs (.supplyBytes abc) :: more)
      (Run.start State.reset) with
  | .next r    => some r
  | .fault _   => none
  | .refused _ => none

/-- P1, R204: the run ends well, and the digest is observed though the host has taken part of it. -/
theorem test_run_ends_well :
    (oneShotRun [.engineStep, .engineStep, .engineStep, .hostActs (.takeBytes 30)]).map
      (fun r => (endsWell (programOf oneShot) r, (observe r).dataOut, (observe r).status, r.handed.length, r.state.dataOut)) =
      some (true, hex 0xba7816bf8f01cfea414140de5dae2223b00361a396177a9cb410ff61f20015ad 32, 0x00000002#32, 30,
        [0x15#8, 0xad#8]) := by
  decide +kernel

/-- R204: a run whose words are not all taken, and one of another program, have not ended well. -/
theorem test_run_not_ended :
    (oneShotRun [.engineStep, .engineStep]).map (endsWell (programOf oneShot)) = some false ∧
    (oneShotRun [.engineStep, .engineStep, .engineStep]).map (endsWell (programOf (oneShot ++ [(.exportSnap, [])]))) = some false := by
  decide +kernel

/-! ### The assembler -/

/-- V10, R69, R70: a line of text, its comment and a pseudo-command. -/
theorem test_assemble_hash :
    (parseLines ["HASH.256 0x3, \"abc\" ; one shot".toList, "; nothing".toList, "EXPORT".toList]).bind assemble =
      some { words := [0x00000000#32, 0x00000001#32, 0x00000003#32, 0x00000002#32, 0x00000003#32], dataIn := abc } := by
  decide +kernel

/-- R69: a wrong length, an unknown mnemonic and a lower-case mnemonic are refused. -/
theorem test_assemble_refuses :
    (parseLines ["UPDATE 4, hex:616263".toList]).bind assemble = none ∧
    parseLine "DIGEST".toList = none ∧ parseLine "export".toList = none := by decide +kernel

/-! ### Witnesses: states and operands that meet the hypotheses of each statement -/

/-- The operands of DecodeOfEncode, at the edges of LEN. -/
theorem witness_DecodeOfEncode :
    (Instr.update 0).wellFormed = true ∧ (Instr.importSnap (2 ^ 32 - 1)).wellFormed = true := by decide

theorem witness_DecodeOnlyEncodings : decode [0x00000001#32, 0x00000000#32, 0x00000002#32] = .ok (.update 0, [0x00000002#32]) := by
  decide

theorem witness_StepRunsTheDecodedCommand :
    let s := withPort [0x00000001#32, 0xFFFFFFFF#32, 0x00000003#32] (liveState 0 [] [])
    s.faultCode = .none ∧ (Instr.update (2 ^ 32 - 1)).wellFormed = true ∧
      s.cmdPort = encode (.update (2 ^ 32 - 1)) ++ [0x00000003#32] := by decide +kernel

/-- One word for each clause: bit 4, the three reserved values of OP, and VAR = 1 on UPDATE, EXPORT and IMPORT. -/
theorem witness_IllegalWordFaults :
    ∀ w0 ∈ [0x00000010#32, 0x00000005#32, 0x00000006#32, 0x00000007#32, 0x00000009#32, 0x0000000B#32, 0x0000000C#32],
      let s := withPort [w0] State.reset
      s.faultCode = .none ∧ s.cmdPort = w0 :: [] ∧
      (w0.toNat / 16 ≠ 0 ∨ w0.toNat % 8 = 5 ∨ w0.toNat % 8 = 6 ∨ w0.toNat % 8 = 7 ∨
        (w0.toNat / 8 % 2 = 1 ∧ (w0.toNat % 8 = 1 ∨ w0.toNat % 8 = 3 ∨ w0.toNat % 8 = 4))) := by
  intro w0 h
  fin_cases h <;> decide +kernel

/-- The four holds: no word, no LEN, one byte short of an UPDATE, one byte short of a snapshot; the missing byte is then there. -/
theorem witness_EngineHoldsUntilSupplied :
    (State.reset.faultCode = .none ∧ State.reset.cmdPort = []) ∧
    (∀ s ∈ [withPort [0x00000001#32] State.reset, withPort [0x00000004#32] State.reset], s.faultCode = .none ∧
      (s.cmdPort = [0x00000001#32] ∨ s.cmdPort = [0x00000004#32])) ∧
    (let s := withPort [0x00000001#32, 0x00000003#32] (liveState 0 [] [0x61#8, 0x62#8])
     s.faultCode = .none ∧ s.life = .live ∧ s.cmdPort = 0x00000001#32 :: 0x00000003#32 :: [] ∧
      s.dataIn.length < (0x00000003#32).toNat ∧ (0x00000003#32).toNat ≤ s.dataIn.length + [0x63#8].length) ∧
    (let s := withPort [0x00000004#32, 0x00000068#32] { State.reset with dataIn := List.replicate 103 0x00#8 }
     s.faultCode = .none ∧ s.cmdPort = 0x00000004#32 :: 0x00000068#32 :: [] ∧ s.dataIn.length < 104 ∧
      104 ≤ s.dataIn.length + [0x00#8].length) := by decide +kernel

/-- The bytes an UPDATE takes are exactly there. -/
theorem witness_EveryCommandHasANextState :
    (liveState 0 [] abc).faultCode = .none ∧ payloadSize (.update 3) ≤ (liveState 0 [] abc).dataIn.length := by decide +kernel

/-- An engine that is not halted, in each LIFE: InitStartsAMessage, FinalWipesOrFaults, EmptyUpdateIsANoOp, RepeatedInitAndExport. -/
theorem witness_running :
    State.reset.faultCode = .none ∧ State.reset.life = .uninit ∧ (liveState 3 abc []).faultCode = .none ∧
    (liveState 3 abc []).life = .live ∧ wipedState.faultCode = .none ∧ wipedState.life = .wiped := by decide +kernel

/-- UpdateAbsorbsItsPayload, at LEN = 0 and where COUNT wraps. -/
theorem witness_UpdateAbsorbsItsPayload :
    (let s := liveState 3 abc []; s.faultCode = .none ∧ s.life = .live ∧ 0 ≤ s.dataIn.length) ∧
    (let s := liveState (2 ^ 64 - 1) [] [0x00#8]; s.faultCode = .none ∧ s.life = .live ∧ 1 ≤ s.dataIn.length) := by
  decide +kernel

/-- V13: partial 1 and LEN 62, the last fast path. -/
theorem witness_UpdateFastPath :
    let s := liveState 1 abc (counting 62)
    s.faultCode = .none ∧ s.life = .live ∧ 62 ≤ s.dataIn.length ∧ fill s + 62 < 64 := by decide +kernel

/-- V13: partial 1 and LEN 63, the first slow path; partial 63 and LEN 65, with a direct block. -/
theorem witness_UpdateSlowPath :
    (let s := liveState 1 abc (counting 63)
     s.faultCode = .none ∧ s.life = .live ∧ 63 ≤ s.dataIn.length ∧ 64 ≤ fill s + 63) ∧
    (let s := liveState 63 abc (counting 65)
     s.faultCode = .none ∧ s.life = .live ∧ 65 ≤ s.dataIn.length ∧ 64 ≤ fill s + 65) := by decide +kernel

theorem witness_FillLevelInvariant :
    ∃ t, (liveState (2 ^ 64 - 1) [] [0x00#8]).life = .live ∧
      exec (.update 1) (liveState (2 ^ 64 - 1) [] [0x00#8]) = .next t :=
  ⟨_, rfl, exec_update_of_live rfl rfl (Nat.le_refl 1)⟩

/-- V16: the edges of both branches. -/
theorem witness_PaddingLength :
    ((0 < 56 ∧ padLen 0 = 56) ∧ 55 < 56 ∧ padLen 55 = 1) ∧ (56 ≤ 56 ∧ 56 < 64 ∧ padLen 56 = 64) ∧
    (56 ≤ 63 ∧ 63 < 64 ∧ padLen 63 = 57) ∧ padBytes 1 = [0x80#8] := by decide

/-- FinalSuffixCalls and FinalEmitsTheDigestAndWipes, with index 0, 55, 56 and 63. -/
theorem witness_FinalSuffixCalls :
    ∀ p ∈ [(0, true), (55, true), (56, false), (63, false)],
      (liveState p.1 [] []).faultCode = .none ∧ (liveState p.1 [] []).life = .live ∧
      decide (fill (liveState p.1 [] []) < 56) = p.2 := by decide +kernel

/-- AbsorptionIgnoresChunking and DigestOfTheMessage: three chunks, one empty, and a byte that stays on the stream. -/
theorem witness_AbsorptionIgnoresChunking :
    let s : State := { wipedState with dataIn := abc ++ [0xff#8] }
    s.faultCode = .none ∧ s.dataIn = [[0x61#8], [], [0x62#8, 0x63#8]].flatten ++ [0xff#8] := by decide +kernel

/-- A run of FINAL.256 alone. -/
theorem final256_runs {s : State} (hr : s.faultCode = .none) (hl : s.life = .live) :
    execAll [.final256] s = .next (finishMessage .sha256 s) := by
  simp only [execAll, exec_final256_of_live hr hl]

/-- LeftoverBytesNeverReachADigest: two states that differ in a leftover byte. -/
theorem witness_LeftoverBytesNeverReachADigest :
    let s := liveState 3 abc []
    let s' := liveState 3 (abc ++ [0xff#8]) []
    (SameMessage s s' ∧ s.buf[3] ≠ s'.buf[3]) ∧ s.dataIn = s'.dataIn ∧
      [Instr.final256].all goesOn = true ∧ ∃ t, execAll [.final256] s = .next t :=
  ⟨⟨⟨rfl, rfl, by decide +kernel, rfl, rfl, rfl⟩, by decide +kernel⟩, rfl, rfl, _, final256_runs rfl rfl⟩

theorem witness_SnapAndUnsnapAreInverse : abcSnapshot.length = 104 := by decide +kernel

/-- ExportEmitsTheSnapshot and ExportOfAnUninitializedStateFaults: a LIVE state, and a WIPED one that keeps the invariant. -/
theorem witness_ExportOfAnUninitializedStateFaults :
    ((liveState 3 abc []).faultCode = .none ∧ (liveState 3 abc []).life ≠ .uninit) ∧
    (State.reset.faultCode = .none ∧ State.reset.life = .uninit) ∧
    (wipedState.faultCode = .none ∧ wipedState.life = .wiped ∧ Inv wipedState) := by
  refine ⟨by decide +kernel, by decide +kernel, rfl, rfl, fun _ => ⟨rfl, rfl, rfl⟩, fun _ => rfl, fun c hc => ?_⟩
  cases hc

/-- V32: the sizes beside 104. -/
theorem witness_ImportChecksTheSize : State.reset.faultCode = .none ∧ (103 : Nat) ≠ 104 ∧ (105 : Nat) ≠ 104 := by decide

theorem witness_ImportReplacesTheHashState :
    let s : State := { wipedState with dataIn := abcSnapshot }
    s.faultCode = .none ∧ 104 ≤ s.dataIn.length := by decide +kernel

/-- SuspendAndResume: engine `b`, in reset, is given the exported bytes. -/
theorem witness_SuspendAndResume :
    let a := liveState 3 abc []
    ∃ (a' : State) (img : List Byte) (b t : State),
      a.faultCode = .none ∧ a.life = .live ∧ b.faultCode = .none ∧ b.config = a.config ∧
      exec .exportSnap a = .next a' ∧ a'.dataOut = a.dataOut ++ img ∧ b.dataIn = img ++ a.dataIn ∧
      [Instr.final256].all goesOn = true ∧ execAll [.final256] a = .next t := by
  let a := liveState 3 abc []
  let img := snap a.config.snapEndian a.h a.count (observedBuf a)
  exact ⟨exportSnapshot a, img, { State.reset with dataIn := img ++ a.dataIn }, finishMessage .sha256 a, rfl, rfl, rfl, rfl,
    exec_exportSnap_of_initialized rfl (by decide), exportSnapshot_dataOut a, rfl, rfl, final256_runs rfl rfl⟩

/-- NotLiveFaults: both LIFEs, with each of the three words pending. -/
theorem witness_NotLiveFaults :
    ∀ s ∈ [State.reset, wipedState],
      (s.life = .uninit ∨ s.life = .wiped) ∧
      (let u := withPort [0x00000001#32, 0x00000000#32] s
       u.faultCode = .none ∧ u.cmdPort = 0x00000001#32 :: 0x00000000#32 :: []) ∧
      (let u := withPort [0x00000002#32] s; u.faultCode = .none ∧ u.cmdPort = 0x00000002#32 :: []) ∧
      (let u := withPort [0x0000000A#32] s; u.faultCode = .none ∧ u.cmdPort = 0x0000000A#32 :: []) := by decide +kernel

/-- FaultEntryChangesNothingElse: an illegal word, and a command's own fault. -/
theorem witness_FaultEntryChangesNothingElse :
    ∀ ws ∈ [[0x00000010#32], [0x00000001#32, 0x00000003#32]],
      see (fun t => decide (t.faultCode ≠ .none)) (step (withPort ws State.reset)) = some true := by decide +kernel

theorem witness_OnlyResetLeavesTheHalt : haltedState.faultCode ≠ .none := by decide

/-- OnlyFinalAndExportWriteDataOut, DataFraming and RegisterWriters: FINAL writes data-out. -/
theorem witness_OnlyFinalAndExportWriteDataOut :
    see (fun t => decide (t.dataOut ≠ (liveState 3 abc []).dataOut)) (exec .final224 (liveState 3 abc [])) = some true := by
  decide +kernel

/-- DataFraming and RegisterWriters: a command that faults, and each kind of command that does not. -/
theorem witness_DataFraming :
    see (fun t => decide (t.faultCode ≠ .none)) (exec (.importSnap 103) State.reset) = some true ∧
    see (fun t => t.faultCode) (exec (.importSnap 104) { State.reset with dataIn := abcSnapshot }) = some .none ∧
    see (fun t => t.faultCode) (exec (.update 3) (liveState 0 [] abc)) = some .none ∧
    see (fun t => t.faultCode) (exec .exportSnap (liveState 3 abc [])) = some .none ∧
    see (fun t => t.faultCode) (exec .init224 wipedState) = some .none := by decide +kernel

/-- LifecycleTransitions: into LIVE, and into WIPED. -/
theorem witness_LifecycleTransitions :
    see (fun t => decide (t.life ≠ .uninit)) (step (withPort [0x00000000#32] State.reset)) = some true ∧
    see (fun t => decide (t.life ≠ .live)) (step (withPort [0x00000002#32] (liveState 3 abc []))) = some true := by
  decide +kernel

/-- TransformCallCounts: UPDATE at 63, 64, 127 and 128 bytes from an empty buffer, FINAL at 55 and 56, and a fault. -/
theorem witness_TransformCallCounts :
    (∀ p ∈ [(63, 0), (64, 1), (127, 1), (128, 2)],
      see (fun t => (t.faultCode, t.calls.length)) (exec (.update p.1) (liveState 0 [] (counting 128))) = some (.none, p.2)) ∧
    (∀ p ∈ [(55, 1), (56, 2)],
      see (fun t => (t.faultCode, t.calls.length)) (exec .final256 (liveState p.1 [] [])) = some (.none, p.2)) ∧
    see (fun t => (t.faultCode, t.calls.length)) (exec .final224 State.reset) = some (.notLive, 0) := by decide +kernel

/-- StepOnlyExtendsTheHistory and StepKeepsTheInvariant: a step from reset, which keeps the invariant. -/
theorem witness_StepKeepsTheInvariant :
    let s := withPort [0x00000000#32] State.reset
    Inv s ∧ ∃ t, step s = .next t := by
  intro s
  refine ⟨⟨fun h => (nomatch h), fun _ => rfl, fun c hc => ?_⟩, _, rfl⟩
  cases hc

/-- ResetState: power-on, and a reset of a halted engine. -/
theorem witness_ResetState : State.reset = State.reset ∧ ∃ before, assertReset haltedState = assertReset before :=
  ⟨rfl, haltedState, rfl⟩

/-- ResetContentsAreUnobservable: two UNINIT states with other contents, at an IMPORT-free start and at INIT. -/
theorem witness_ResetContentsAreUnobservable :
    let s := withPort [0x00000000#32] State.reset
    let s' : State := { s with h := iv224, count := 7#64, buf := blockAt abc 0 }
    s.life = .uninit ∧ s' = { s with h := s'.h, count := s'.count, buf := s'.buf } ∧
      ∃ t, step s = .next t ∧ t.life ≠ .uninit := by
  refine ⟨rfl, rfl, _, rfl, ?_⟩
  decide

theorem witness_ScheduleRecurrence : (16 ≤ 16 ∧ 16 < 64) ∧ 16 ≤ 63 ∧ 63 < 64 := by decide

/-- ReferenceTransformVectors: the edges of the rotation amount. -/
theorem witness_ReferenceTransformVectors : (1 ≤ 1 ∧ 1 < 32) ∧ 1 ≤ 31 ∧ 31 < 32 := by decide

/-- RunsAccountForEveryByte: a run with a step and a byte taken; DutifulProgramsEndWell: the program P1 from reset. -/
theorem witness_DutifulProgramsEndWell :
    (oneShotRun [.engineStep, .hostActs (.takeBytes 1)]).isSome = true ∧
    (State.reset.faultCode = .none ∧ State.reset.cmdPort = [] ∧ State.reset.dataIn = []) ∧
    (oneShot.all fun c => c.1.wellFormed && dutiful c.1 c.2) = true ∧
    see (fun t => t.faultCode) (execAll (oneShot.map (·.1)) (supply (programOf oneShot).dataIn State.reset)) = some .none := by
  decide +kernel

/-- InstancesAreIndependent: two engines, one of which steps after its host has issued INIT. -/
theorem witness_InstancesAreIndependent :
    let sys : System := { engines := [State.reset, wipedState], hosts := [] }
    ∃ sys' sys'', sys.hostActs 5 0 (.issueWords [0x00000000#32]) = .next sys' ∧ sys'.stepAt 0 = .next sys'' ∧ 6 ≠ 5 :=
  ⟨_, _, rfl, rfl, by decide⟩

/-- AssembledPayloads: a payload of its length, in both forms, and one that is not. -/
theorem witness_AssembledPayloads :
    (Payload.text "abc".toList).bytes = some abc ∧ (Payload.hex "616263".toList).bytes = some abc ∧
    abc.length = 3 ∧ 3 < 2 ^ 32 ∧ abc.length ≠ 4 := by decide +kernel

end Sys2Proof.Tests
end

section
/-!
SUPPORT. What a command that answers a next state has done, said once for all seven commands, and the converse of `step_next`:
every proof about a whole step splits on this.
-/

namespace Sys2Proof.Machine

/-! ### Commands -/

/-- The fault a command takes on a state, if any, in the order of its checks (R174, R175, R176). -/
def commandFault : Instr → State → FaultCode
  | .init256, _        => .none
  | .init224, _        => .none
  | .update _, s       => if s.life = .live then .none else .notLive
  | .final256, s       => if s.life = .live then .none else .notLive
  | .final224, s       => if s.life = .live then .none else .notLive
  | .exportSnap, s     => if s.life = .uninit then .uninitRead else .none
  | .importSnap len, _ => if len = Config.snapSize then .none else .snapshotSize

/-- What a command that answers a next state has done to `s`: taken its fault (R172), or had its whole effect. -/
inductive Completes (s : State) : Instr → State → Prop where
  | faulted (i : Instr) (hfault : commandFault i s ≠ .none) :
      Completes s i (raiseFault (commandFault i s) (encodeWord0 i) s)
  | started (v : Variant) : Completes s (initOf v) (startMessage v s)
  | absorbed (len : Nat) (hlive : s.life = .live) (hdata : len ≤ s.dataIn.length) :
      Completes s (.update len) (absorb (s.dataIn.take len) { s with dataIn := s.dataIn.drop len })
  | finished (v : Variant) (hlive : s.life = .live) : Completes s (finalOf v) (finishMessage v s)
  | exported (hinit : s.life ≠ .uninit) : Completes s .exportSnap (exportSnapshot s)
  | imported (hdata : 104 ≤ s.dataIn.length) :
      Completes s (.importSnap 104) (loadSnapshot (s.dataIn.take 104) { s with dataIn := s.dataIn.drop 104 })

theorem Completes.faulted_of_eq {i : Instr} {s : State} {code : FaultCode} (hcode : commandFault i s = code)
    (hne : code ≠ .none) : Completes s i (raiseFault code (encodeWord0 i) s) := by
  subst hcode
  exact .faulted i hne

/-- A command answers a next state only on an engine that is not halted, and then has completed. -/
theorem exec_completes {i : Instr} {s t : State} (h : exec i s = .next t) : s.faultCode = .none ∧ Completes s i t := by
  cases i with
  | init256 => obtain ⟨hr, rfl⟩ := exec_init256_next h; exact ⟨hr, .started .sha256⟩
  | init224 => obtain ⟨hr, rfl⟩ := exec_init224_next h; exact ⟨hr, .started .sha224⟩
  | update len =>
    obtain ⟨hr, ⟨hl, rfl⟩ | ⟨hl, hd, rfl⟩⟩ := exec_update_next h
    · exact ⟨hr, .faulted_of_eq (if_neg hl) (by decide)⟩
    · exact ⟨hr, .absorbed len hl hd⟩
  | final256 =>
    obtain ⟨hr, ⟨hl, rfl⟩ | ⟨hl, rfl⟩⟩ := exec_final256_next h
    · exact ⟨hr, .faulted_of_eq (if_neg hl) (by decide)⟩
    · exact ⟨hr, .finished .sha256 hl⟩
  | final224 =>
    obtain ⟨hr, ⟨hl, rfl⟩ | ⟨hl, rfl⟩⟩ := exec_final224_next h
    · exact ⟨hr, .faulted_of_eq (if_neg hl) (by decide)⟩
    · exact ⟨hr, .finished .sha224 hl⟩
  | exportSnap =>
    obtain ⟨hr, ⟨hl, rfl⟩ | ⟨hl, rfl⟩⟩ := exec_exportSnap_next h
    · exact ⟨hr, .faulted_of_eq (if_pos hl) (by decide)⟩
    · exact ⟨hr, .exported hl⟩
  | importSnap len =>
    obtain ⟨hr, ⟨hl, rfl⟩ | ⟨rfl, hd, rfl⟩⟩ := exec_importSnap_next h
    · exact ⟨hr, .faulted_of_eq (if_neg hl) (by decide)⟩
    · exact ⟨hr, .imported hd⟩

theorem exec_initOf {s : State} (hr : s.faultCode = .none) (v : Variant) :
    exec (initOf v) s = .next (startMessage v s) := by
  cases v <;> exact whenRunning_of_running hr _

/-- A command whose check fails takes its fault, whatever is pending on data-in (R97, R133). -/
theorem exec_of_commandFault {i : Instr} {s : State} (hr : s.faultCode = .none) (hf : commandFault i s ≠ .none) :
    exec i s = .next (raiseFault (commandFault i s) (encodeWord0 i) s) := by
  cases i with
  | init256 | init224 => exact absurd rfl hf
  | update _ | final256 | final224 =>
    have hl : s.life ≠ .live := (ite_ne_left_iff.1 hf).1
    rw [commandFault, if_neg hl]
    exact (whenRunning_of_running hr _).trans (ifLive_of_not_live _ hl _)
  | exportSnap =>
    have hl : s.life = .uninit := (ite_ne_right_iff.1 hf).1
    rw [commandFault, if_pos hl]
    exact (whenRunning_of_running hr _).trans (if_pos hl)
  | importSnap len =>
    have hl : len ≠ Config.snapSize := (ite_ne_left_iff.1 hf).1
    rw [commandFault, if_neg hl]
    exact (whenRunning_of_running hr _).trans (if_neg hl)

/-- The fault registers after a command: both written by its fault, or both left (R26, R32). -/
theorem Completes.fault_registers {i : Instr} {s t : State} (h : Completes s i t) :
    (t.faultCode ≠ .none ∧ t = raiseFault (commandFault i s) (encodeWord0 i) s) ∨
    (t.faultCode = s.faultCode ∧ t.faultWord = s.faultWord) := by
  cases h with
  | faulted i hfault => exact .inl ⟨hfault, rfl⟩
  | started v => exact .inr ⟨rfl, rfl⟩
  | absorbed len _ _ => exact .inr ⟨absorb_faultCode _ _, absorb_faultWord _ _⟩
  | finished v _ =>
    obtain ⟨-, -, -, -, -, hcode, hword, -⟩ := finishMessage_spec v s
    exact .inr ⟨hcode, hword⟩
  | exported _ => exact .inr ⟨exportSnapshot_faultCode s, exportSnapshot_faultWord s⟩
  | imported _ => exact .inr ⟨loadSnapshot_faultCode _ _, loadSnapshot_faultWord _ _⟩

/-! ### The words of a step -/

/-- A command has one or two words (R60). -/
theorem encode_length (i : Instr) : (encode i).length = 1 ∨ (encode i).length = 2 := by
  cases i <;> simp [encode]

theorem step_of_illegal {s : State} {w0 : W32} {rest : List W32} {why : Illegal} (hr : s.faultCode = .none)
    (hp : s.cmdPort = w0 :: rest) (hw : decodeHead w0 = .error why) : step s = .next (takeIllegal w0 s) := by
  have hd : decode s.cmdPort = .error (.illegal why w0) := by simp only [hp, decode, hw]
  have hf : fetch s = .illegal w0 := by simp only [fetch_of_running hr, hd]
  simp only [step, hf]

theorem step_of_command {s : State} {i : Instr} {rest : List W32} (hr : s.faultCode = .none)
    (hd : decode s.cmdPort = .ok (i, rest)) : step s = exec i (takeWords (encode i).length s) := by
  have hlen : s.cmdPort.length - rest.length = (encode i).length := by
    have := decode_words hd
    omega
  have hf : fetch s = .command i (encode i).length := by simp only [fetch_of_running hr, hd, hlen]
  simp only [step, hf]

/-- A step counts one or two words (R29, R62). -/
theorem step_cmdIndex {s t : State} (h : step s = .next t) :
    t.cmdIndex = s.cmdIndex + 1 ∨ t.cmdIndex = s.cmdIndex + 2 := by
  obtain ⟨-, ⟨w0, rest, why, -, -, rfl⟩ | ⟨i, rest, -, he⟩⟩ := step_next h
  · exact .inl rfl
  · obtain ⟨-, hindex, -⟩ := exec_streams he
    rw [hindex, takeWords_cmdIndex]
    have := encode_length i
    omega

end Sys2Proof.Machine
end

section
/-!
SUPPORT. The history of transform calls (10_state.md R33, R34): what an absorption, a command and a step add to it, and the two
counters and parameters that go with it.
-/

namespace Sys2Proof.Machine

/-- A transform call passed whole blocks: at least one, and exactly one from the buffer (R34, R94). -/
def CallWhole (c : TransformCall) : Prop := 1 ≤ c.blocks.length ∧ (c.src = .buf → c.blocks.length = 1)

/-- `t` comes after `s`: its history has only whole calls more, no draw is undone, the parameters are the same. -/
structure ExtendsHistory (s t : State) : Prop where
  calls  : ∃ new, t.calls = s.calls ++ new ∧ ∀ c ∈ new, CallWhole c
  draws  : s.draws ≤ t.draws
  config : t.config = s.config

theorem ExtendsHistory.of_same {s t : State} (hcalls : t.calls = s.calls) (hdraws : s.draws ≤ t.draws)
    (hconfig : t.config = s.config) : ExtendsHistory s t :=
  ⟨⟨[], by simp [hcalls], by simp⟩, hdraws, hconfig⟩

theorem ExtendsHistory.trans {s t u : State} (hst : ExtendsHistory s t) (htu : ExtendsHistory t u) :
    ExtendsHistory s u := by
  obtain ⟨⟨x, hx, hxw⟩, hd, hc⟩ := hst
  obtain ⟨⟨y, hy, hyw⟩, hd', hc'⟩ := htu
  refine ⟨⟨x ++ y, by rw [hy, hx, List.append_assoc], fun c hm => ?_⟩, hd.trans hd', hc'.trans hc⟩
  exact (List.mem_append.1 hm).elim (hxw c) (hyw c)

/-- The calls of the slow path pass the filled buffer, then all whole blocks that follow, if there are any (R94, R95). -/
theorem slowCalls_whole {m : List Byte} {c : TransformCall} (hc : c ∈ slowCalls m) : CallWhole c := by
  rcases List.mem_cons.1 hc with rfl | hdata
  · exact ⟨Nat.le_refl 1, fun _ => rfl⟩
  · split at hdata
    · rename_i hq
      obtain rfl := List.mem_singleton.1 hdata
      exact ⟨by rwa [blocksOf_length], nofun⟩
    · cases hdata

/-- An absorption draws on its slow path only (R90). -/
theorem absorb_draws_le (d : List Byte) (s : State) : s.draws ≤ (absorb d s).draws := by
  by_cases hf : fill s + d.length < 64
  · simp [absorb, hf]
  · have hp := fill_lt s
    obtain ⟨-, -, -, hdraws⟩ :=
      absorbBlocks_spec (part := fill s) (d := d) (s := addCount d.length s) (by omega) (by omega)
    simp only [absorb, if_neg hf, hdraws, addCount_draws]
    omega

theorem absorb_extendsHistory (d : List Byte) (s : State) : ExtendsHistory s (absorb d s) := by
  refine ⟨⟨_, absorb_calls d s, fun c hc => ?_⟩, absorb_draws_le d s, absorb_config d s⟩
  split at hc
  · cases hc
  · exact slowCalls_whole hc

/-- FINAL's history is that of its suffix: the output and the wipe call nothing (R115). -/
theorem finishMessage_extendsHistory (v : Variant) (s : State) : ExtendsHistory s (finishMessage v s) := by
  have hsuffix : ExtendsHistory s (absorbSuffix s) :=
    (absorb_extendsHistory _ s).trans (absorb_extendsHistory _ _)
  refine hsuffix.trans (.of_same ?_ ?_ ?_) <;> simp [finishMessage]

theorem Completes.extendsHistory {i : Instr} {s t : State} (h : Completes s i t) : ExtendsHistory s t := by
  cases h with
  | faulted i _ => exact .of_same rfl (Nat.le_refl _) rfl
  | started v => exact .of_same rfl (Nat.le_refl _) rfl
  | absorbed len _ _ =>
    have htaken : ExtendsHistory s { s with dataIn := s.dataIn.drop len } := .of_same rfl (Nat.le_refl _) rfl
    exact htaken.trans (absorb_extendsHistory _ _)
  | finished v _ => exact finishMessage_extendsHistory v s
  | exported _ =>
    exact .of_same (exportSnapshot_calls s) (by rw [exportSnapshot_draws]; omega) (exportSnapshot_config s)
  | imported _ => exact .of_same (loadSnapshot_calls _ _) (by rw [loadSnapshot_draws]) (loadSnapshot_config _ _)

theorem takeWords_extendsHistory (n : Nat) (s : State) : ExtendsHistory s (takeWords n s) :=
  .of_same rfl (Nat.le_refl _) rfl

theorem step_extendsHistory {s t : State} (h : step s = .next t) : ExtendsHistory s t := by
  obtain ⟨-, ⟨w0, rest, why, -, -, rfl⟩ | ⟨i, rest, -, he⟩⟩ := step_next h
  · exact .of_same rfl (Nat.le_refl _) rfl
  · exact (takeWords_extendsHistory _ s).trans (exec_completes he).2.extendsHistory

/-- Settles O41: the streams and the port by `step_streams`, the rest by what a step adds to the history. -/
theorem stepOnlyExtendsTheHistory : Obligations.StepOnlyExtendsTheHistory := by
  unfold Obligations.StepOnlyExtendsTheHistory
  intro s t h
  obtain ⟨⟨words, hport, hindex⟩, ⟨taken, hin⟩, emitted, hout⟩ := step_streams h
  obtain ⟨⟨new, hcalls, -⟩, hdraws, hconfig⟩ := step_extendsHistory h
  have hwords : words.length = 1 ∨ words.length = 2 := by
    have := step_cmdIndex h
    omega
  exact ⟨words, taken, emitted, new, hport, hwords, hindex, hin, hout, hcalls, hdraws, hconfig⟩

end Sys2Proof.Machine
end

section
/-!
SUPPORT. The machine's invariant (10_state.md R24, R26, R34): every command and every step keeps it.
-/

namespace Sys2Proof.Machine

/-- A command leaves the HashState WIPED only by zeroing it, or by not touching one that was (R24, R118). -/
theorem Completes.wiped {i : Instr} {s t : State} (h : Completes s i t) (hw : t.life = .wiped) :
    (t.h = Vector.replicate 8 0#32 ∧ t.count = 0#64 ∧ t.buf = Vector.replicate 64 0#8) ∨
    (s.life = .wiped ∧ t.h = s.h ∧ t.count = s.count ∧ t.buf = s.buf) := by
  cases h with
  | faulted i _ => exact .inr ⟨hw, rfl, rfl, rfl⟩
  | started v => cases hw
  | absorbed len hlive _ => simp [hlive] at hw
  | finished v _ =>
    obtain ⟨-, hh, hcount, hbuf, -⟩ := finishMessage_spec v s
    exact .inl ⟨hh, hcount, hbuf⟩
  | exported _ =>
    exact .inr ⟨(exportSnapshot_life s).symm.trans hw, exportSnapshot_h s, exportSnapshot_count s, exportSnapshot_buf s⟩
  | imported _ => cases hw

theorem Completes.keeps_inv {i : Instr} {s t : State} (h : Completes s i t) (hr : s.faultCode = .none) (hi : Inv s) :
    Inv t where
  wiped_zero hw := by
    rcases h.wiped hw with hzero | ⟨hws, hh, hcount, hbuf⟩
    · exact hzero
    · rw [hh, hcount, hbuf]
      exact hi.wiped_zero hws
  no_fault_word hnone := by
    rcases h.fault_registers with ⟨hfault, -⟩ | ⟨-, hword⟩
    · exact absurd hnone hfault
    · exact hword.trans (hi.no_fault_word hr)
  calls_whole c hc := by
    obtain ⟨new, hcalls, hnew⟩ := h.extendsHistory.calls
    rw [hcalls] at hc
    exact (List.mem_append.1 hc).elim (hi.calls_whole c) (hnew c)

theorem Inv.takeWords {s : State} (hi : Inv s) (n : Nat) : Inv (takeWords n s) :=
  ⟨hi.wiped_zero, hi.no_fault_word, hi.calls_whole⟩

theorem Inv.raiseFault {s : State} (hi : Inv s) {code : FaultCode} (hcode : code ≠ .none) (word0 : W32) :
    Inv (raiseFault code word0 s) :=
  ⟨hi.wiped_zero, fun hnone => absurd hnone hcode, hi.calls_whole⟩

/-- Settles O45: taking the words keeps the invariant, and so does whatever the command then does. -/
theorem stepKeepsTheInvariant : Obligations.StepKeepsTheInvariant := by
  unfold Obligations.StepKeepsTheInvariant
  intro s t hi h
  obtain ⟨-, ⟨w0, rest, why, -, -, rfl⟩ | ⟨i, rest, -, he⟩⟩ := step_next h
  · exact (hi.takeWords 1).raiseFault (by decide) w0
  · obtain ⟨hr, hc⟩ := exec_completes he
    exact hc.keeps_inv hr (hi.takeWords _)

/-- Settles O44: after reset the engine is not WIPED, holds no fault, and has called nothing. -/
theorem resetKeepsTheInvariant : Obligations.ResetKeepsTheInvariant :=
  ⟨nofun, fun _ => rfl, nofun⟩

end Sys2Proof.Machine
end

section
/-!
SUPPORT. The registers: the fill level (10_state.md R23), the lifecycle (R25), which command writes what (R32), and the status
outputs (R27).
-/

namespace Sys2Proof.Machine

/-- Settles O14: `fill` is a remainder by 64, which divides 2^64, and an absorption adds its length to it. -/
theorem fillLevelInvariant : Obligations.FillLevelInvariant := by
  unfold Obligations.FillLevelInvariant
  refine ⟨fill_lt, fun c n => by omega, fun s t len hlive h => ?_⟩
  obtain ⟨-, ⟨hl, -⟩ | ⟨-, hdata, rfl⟩⟩ := exec_update_next h
  · exact absurd hlive hl
  · rw [absorb_fill, List.length_take, Nat.min_eq_left hdata]
    rfl

/-- Settles O38: the writers one command at a time, the fault registers for all commands at once. -/
theorem registerWriters : Obligations.RegisterWriters := by
  unfold Obligations.RegisterWriters
  intro i s t h
  obtain ⟨hr, hc⟩ := exec_completes h
  refine ⟨?_, ?_, ?_, fun hsame => ?_, fun hchanged => ?_⟩
  · rintro rfl
    obtain ⟨-, ⟨-, rfl⟩ | ⟨-, rfl⟩⟩ := exec_exportSnap_next h
    · exact ⟨rfl, rfl, rfl, rfl⟩
    · simp
  · rintro (rfl | rfl)
    · obtain ⟨-, rfl⟩ := exec_init256_next h
      rfl
    · obtain ⟨-, rfl⟩ := exec_init224_next h
      rfl
  · rintro ⟨len, rfl⟩
    obtain ⟨-, ⟨-, rfl⟩ | ⟨-, -, rfl⟩⟩ := exec_update_next h
    · rfl
    · exact absorb_life _ _
  · rcases hc.fault_registers with ⟨hfault, -⟩ | ⟨-, hword⟩
    · exact absurd (hsame.trans hr) hfault
    · exact hword
  · rcases hc.fault_registers with ⟨-, rfl⟩ | ⟨hcode, -⟩
    · exact ⟨rfl, rfl, rfl, rfl⟩
    · exact absurd hcode hchanged

/-- The commands that change `LIFE`, and what they change it to (R25). -/
theorem Completes.life_changes {i : Instr} {s t : State} (h : Completes s i t) (hne : t.life ≠ s.life) :
    (t.life = .live ∧ ((∃ v, i = initOf v) ∨ i = .importSnap 104)) ∨
    (t.life = .wiped ∧ s.life = .live ∧ ∃ v, i = finalOf v) := by
  cases h with
  | faulted i _ => exact absurd rfl hne
  | started v => exact .inl ⟨rfl, .inl ⟨v, rfl⟩⟩
  | absorbed len _ _ => exact absurd (absorb_life _ _) hne
  | finished v hlive =>
    obtain ⟨-, -, -, -, hlife, -⟩ := finishMessage_spec v s
    exact .inr ⟨hlife, hlive, v, rfl⟩
  | exported _ => exact absurd (exportSnapshot_life s) hne
  | imported _ => exact .inl ⟨loadSnapshot_life _ _, .inr rfl⟩

/-- Settles O39: an illegal word leaves LIFE, and the decoded command changes it only as `Completes.life_changes` says. -/
theorem lifecycleTransitions : Obligations.LifecycleTransitions := by
  unfold Obligations.LifecycleTransitions
  intro s t h hne
  obtain ⟨-, ⟨w0, rest, why, -, -, rfl⟩ | ⟨i, rest, hd, he⟩⟩ := step_next h
  · exact absurd rfl hne
  · refine ⟨i, rest, hd, ?_⟩
    rcases (exec_completes he).2.life_changes hne with ⟨hlive, ⟨v, rfl⟩ | rfl⟩ | ⟨hwiped, hlive, v, rfl⟩
    · exact .inl ⟨hlive, by cases v <;> simp [initOf]⟩
    · exact .inl ⟨hlive, .inr (.inr rfl)⟩
    · exact .inr ⟨hwiped, hlive, by cases v <;> simp [finalOf]⟩

/-! ### The status outputs -/

/-- The fields of `STATUS`, read back from where they were put (R27). -/
theorem status_fields (s : State) :
    s.status.extractLsb' 0 2 = s.life.code ∧ s.status.extractLsb' 2 2 = 0#2 ∧
    s.status.extractLsb' 4 4 = s.faultCode.code ∧ s.status.extractLsb' 8 1 = bitOf s.halted ∧
    s.status.extractLsb' 9 23 = 0#23 := by
  unfold State.status
  generalize s.life.code = life, s.faultCode.code = code, bitOf s.halted = halted
  revert life code halted
  decide

theorem bitOf_eq_one (b : Bool) : bitOf b = 1#1 ↔ b = true := by
  cases b <;> decide

theorem halted_iff (s : State) : s.halted = true ↔ s.faultCode ≠ .none := bne_iff_ne

/-- Settles O35: the fields by `status_fields`; STATUS is a function of LIFE and FAULT_CODE alone. -/
theorem statusLayout : Obligations.StatusLayout := by
  unfold Obligations.StatusLayout
  refine ⟨fun s => ?_, fun s => ⟨rfl, rfl⟩, fun s h c b => ⟨rfl, rfl⟩⟩
  obtain ⟨hlife, hlow, hcode, hhalted, hhigh⟩ := status_fields s
  refine ⟨?_, hlow, ?_, ?_, hhigh⟩
  · rw [hlife]
    cases s.life <;> rfl
  · rw [hcode]
    cases s.faultCode <;> rfl
  · rw [hhalted, bitOf_eq_one, halted_iff]

end Sys2Proof.Machine
end

section
/-!
SUPPORT. Reset (10_state.md R35): what it leaves, and that what `H`, `COUNT` and `BUF` hold before the first message reaches
nothing.
-/

namespace Sys2Proof.Machine

@[simp] theorem assertReset_status (s : State) : (assertReset s).status = State.reset.status := by
  simp only [State.status, State.halted, assertReset_life, assertReset_faultCode]

/-- Settles O42: both resets give every register its value, and an empty port makes the engine wait. -/
theorem resetState : Obligations.ResetState := by
  unfold Obligations.ResetState
  rintro s (rfl | ⟨before, rfl⟩)
  · exact ⟨rfl, rfl, rfl, rfl, rfl, rfl, rfl, rfl, rfl, rfl⟩
  · exact ⟨rfl, rfl, rfl, assertReset_status before, rfl, rfl, rfl, rfl, rfl, rfl⟩

/-- The state with another `H`, `COUNT` and `BUF`. -/
def setHash (h : Hash) (c : W64) (b : Block) (s : State) : State := { s with h := h, count := c, buf := b }

/-- Of an UNINIT state no command's check reads `H`, `COUNT` or `BUF`, and INIT and IMPORT, which alone give it a message,
overwrite what of them is the message (R35). -/
theorem exec_setHash_of_uninit {i : Instr} {s t : State} (h : Hash) (c : W64) (b : Block) (hu : s.life = .uninit)
    (he : exec i s = .next t) :
    ∃ h' c' b', exec i (setHash h c b s) = .next (setHash h' c' b' t) ∧
      (t.life ≠ .uninit → SameMessage t (setHash h' c' b' t)) := by
  obtain ⟨hr, hc⟩ := exec_completes he
  cases hc with
  | faulted i hfault =>
    have hsame : commandFault i (setHash h c b s) = commandFault i s := by cases i <;> rfl
    refine ⟨h, c, b, ?_, fun hne => absurd hu hne⟩
    rw [exec_of_commandFault (s := setHash h c b s) hr (hsame ▸ hfault), hsame]
    rfl
  | started v =>
    have hfill : fill (startMessage v s) = 0 := rfl
    refine ⟨initialWords v, 0#64, b, exec_initOf (s := setHash h c b s) hr v, fun _ => ⟨rfl, rfl, ?_, rfl, rfl, rfl⟩⟩
    intro j hj
    omega
  | absorbed len hlive _ => cases hu.symm.trans hlive
  | finished v hlive => cases hu.symm.trans hlive
  | exported hinit => exact absurd hu hinit
  | imported hdata =>
    exact ⟨_, _, _, exec_importSnap_of_available (s := setHash h c b s) hr hdata,
      fun _ => ⟨rfl, rfl, fun _ _ => rfl, rfl, rfl, rfl⟩⟩

/-- The port does not read them either: the step does as its command does. -/
theorem step_setHash_of_uninit {s t : State} (h : Hash) (c : W64) (b : Block) (hu : s.life = .uninit)
    (hs : step s = .next t) :
    ∃ h' c' b', step (setHash h c b s) = .next (setHash h' c' b' t) ∧
      (t.life ≠ .uninit → SameMessage t (setHash h' c' b' t)) := by
  obtain ⟨hr, ⟨w0, rest, why, hp, hw, rfl⟩ | ⟨i, rest, hd, he⟩⟩ := step_next hs
  · exact ⟨h, c, b, step_of_illegal (s := setHash h c b s) hr hp hw, fun hne => absurd hu hne⟩
  · rw [step_of_command (s := setHash h c b s) hr hd]
    exact exec_setHash_of_uninit (s := takeWords (encode i).length s) h c b hu he

/-- Settles O43: the second state is the first with another `H`, `COUNT` and `BUF`, and its step answers such a state again. -/
theorem resetContentsAreUnobservable : Obligations.ResetContentsAreUnobservable := by
  unfold Obligations.ResetContentsAreUnobservable
  intro s s' t hu hs' hs
  obtain ⟨h', c', b', hstep, hsame⟩ := step_setHash_of_uninit s'.h s'.count s'.buf hu hs
  refine ⟨setHash h' c' b' t, ?_, rfl, rfl, rfl, rfl, rfl, rfl, hsame⟩
  rw [hs']
  exact hstep

end Sys2Proof.Machine
end

section
/-!
SUPPORT. Several engines in one system (10_state.md R31, 20_memory.md R56, 60_exceptions.md R183): the host of each, and what a
step and an act of a host can answer.
-/

namespace Sys2Proof.Machine

/-! ### The host of an engine -/

/-- A host that is admitted is the engine's one host from then on (R56). -/
theorem hostOf_attach_self {sys : System} {host k : Nat} (h : sys.admits host k = true) (engines : List State) :
    System.hostOf { engines := engines, hosts := sys.attach host k } k = some host := by
  unfold System.admits at h
  unfold System.attach
  cases hk : sys.hostOf k with
  | none => simp [System.hostOf]
  | some other =>
    rw [hk] at h
    exact hk.trans (congrArg some (of_decide_eq_true h))

theorem hostOf_attach_of_ne (sys : System) (host : Nat) {j k : Nat} (hne : j ≠ k) (engines : List State) :
    System.hostOf { engines := engines, hosts := sys.attach host k } j = sys.hostOf j := by
  unfold System.attach
  cases sys.hostOf k with
  | none => simp [System.hostOf, List.lookup, beq_false_of_ne hne]
  | some _ => rfl

theorem admits_eq_false {sys : System} {host other k : Nat} (hk : sys.hostOf k = some host) (hne : other ≠ host) :
    sys.admits other k = false := by
  simp [System.admits, hk, hne.symm]

/-! ### What happens to an engine -/

theorem stepAt_next {sys sys' : System} {k : Nat} (h : sys.stepAt k = .next sys') :
    ∃ s t, sys.engines[k]? = some s ∧ step s = .next t ∧ sys' = { sys with engines := sys.engines.set k t } := by
  unfold System.stepAt at h
  split at h
  · rename_i s hs
    split at h
    · rename_i t ht
      cases h
      exact ⟨s, t, hs, ht, rfl⟩
    · cases h
    · cases h
  · cases h

theorem hostActs_next {sys sys' : System} {host k : Nat} {act : HostAct} (h : sys.hostActs host k act = .next sys') :
    ∃ s, sys.engines[k]? = some s ∧ sys.admits host k = true ∧
      sys' = { engines := sys.engines.set k (act.after s), hosts := sys.attach host k } := by
  unfold System.hostActs at h
  split at h
  · rename_i s hs
    split at h
    · rename_i ha
      cases h
      exact ⟨s, hs, ha, rfl⟩
    · cases h
  · cases h

/-- A host that is not admitted is refused and gets nothing (R56). -/
theorem refused_of_not_admits {sys : System} {host k : Nat} (h : sys.admits host k = false) (act : HostAct) :
    sys.hostActs host k act = .refused .refusedHost ∧ sys.answer host k act = none := by
  unfold System.hostActs System.answer
  cases sys.engines[k]? <;> simp [h]

theorem getElem?_set_of_getElem? {α : Type} {l : List α} {k : Nat} {a : α} (h : l[k]? = some a) (b : α) :
    (l.set k b)[k]? = some b :=
  List.getElem?_set_self (List.getElem?_eq_some_iff.1 h).1

/-- Settles O52: a step and an act write one position of the list of instances, reset modifies it, and an act attaches its
host. -/
theorem instancesAreIndependent : Obligations.InstancesAreIndependent := by
  unfold Obligations.InstancesAreIndependent
  refine ⟨fun sys sys' k h => ?_, fun sys sys' host k act h => ?_, fun sys k => ?_⟩
  · obtain ⟨s, t, hs, ht, rfl⟩ := stepAt_next h
    exact ⟨⟨s, t, hs, ht, getElem?_set_of_getElem? hs t⟩, List.length_set, rfl,
      fun j hj => List.getElem?_set_ne hj.symm⟩
  · obtain ⟨s, hs, ha, rfl⟩ := hostActs_next h
    exact ⟨⟨s, hs, getElem?_set_of_getElem? hs _⟩, hostOf_attach_self ha _,
      fun j hj => ⟨List.getElem?_set_ne hj.symm, hostOf_attach_of_ne sys host hj _⟩,
      fun other act' hne => refused_of_not_admits (admits_eq_false (hostOf_attach_self ha _) hne) act'⟩
  · exact ⟨List.getElem?_modify_eq _ _ _, rfl, fun j hj => List.getElem?_modify_ne _ _ hj.symm⟩

end Sys2Proof.Machine
end

section
/-!
SUPPORT. Steps of the engine: the command at the head of the port (20_memory.md R54), and the holds (R43, R53).
-/

namespace Sys2Proof.Machine

/-! ### Decoding -/

theorem lenOperand_ofNat {len : Nat} (h : lenFits len = true) : lenOperand (BitVec.ofNat 32 len) = len := by
  rw [lenOperand, BitVec.toNat_ofNat, Nat.mod_eq_of_lt (of_decide_eq_true h)]

theorem decode_update_words (w1 : W32) (rest : List W32) :
    decode (0x00000001#32 :: w1 :: rest) = .ok (.update w1.toNat, rest) := by
  simp only [decode, decodeHead_update, lenOperand]

theorem decode_import_words (w1 : W32) (rest : List W32) :
    decode (0x00000004#32 :: w1 :: rest) = .ok (.importSnap w1.toNat, rest) := by
  simp only [decode, decodeHead_importSnap, lenOperand]

/-- A well-formed instruction is read back from its words, whatever words follow (R64). -/
theorem decode_encode {i : Instr} (hi : i.wellFormed = true) (rest : List W32) :
    decode (encode i ++ rest) = .ok (i, rest) := by
  cases i with
  | init256 => simp [encode, decode, decodeHead_init256]
  | init224 => simp [encode, decode, decodeHead_init224]
  | update len => simp [encode, decode, decodeHead_update, lenOperand_ofNat hi]
  | final256 => simp [encode, decode, decodeHead_final256]
  | final224 => simp [encode, decode, decodeHead_final224]
  | exportSnap => simp [encode, decode, decodeHead_exportSnap]
  | importSnap len => simp [encode, decode, decodeHead_importSnap, lenOperand_ofNat hi]

/-- Settles O5: the decoder reads the instruction back from its words, and the step takes exactly those. -/
theorem stepRunsTheDecodedCommand : Obligations.StepRunsTheDecodedCommand := by
  unfold Obligations.StepRunsTheDecodedCommand
  intro s i rest hr hi hport
  have hd : decode s.cmdPort = .ok (i, rest) := by rw [hport, decode_encode hi]
  rw [step_of_command hr hd, takeWords, hport, List.drop_left]

/-! ### The holds -/

theorem step_of_noWord {s : State} (hr : s.faultCode = .none) (hp : s.cmdPort = []) :
    step s = .refused .waitingForCommand := by
  have hf : fetch s = .waiting := by simp only [fetch_of_running hr, hp, decode]
  simp only [step, hf]

theorem step_of_noLen {s : State} (hr : s.faultCode = .none) (hd : decode s.cmdPort = .error .noLen) :
    step s = .refused .holdingForLen := by
  have hf : fetch s = .needsLen := by simp only [fetch_of_running hr, hd]
  simp only [step, hf]

/-- An UPDATE of a LIVE state holds while data-in is shorter than its `LEN`, and completes with no fault otherwise (R43, R97). -/
theorem step_update_of_live {s : State} {len : Nat} {rest : List W32} (hr : s.faultCode = .none) (hl : s.life = .live)
    (hd : decode s.cmdPort = .ok (.update len, rest)) :
    (s.dataIn.length < len → step s = .refused .holdingForData) ∧
    (len ≤ s.dataIn.length → ∃ t, step s = .next t ∧ t.faultCode = .none) := by
  rw [step_of_command hr hd]
  exact ⟨exec_update_short (s := takeWords _ s) hr hl, fun hdata =>
    ⟨_, exec_update_of_live (s := takeWords _ s) hr hl hdata, (absorb_faultCode _ _).trans hr⟩⟩

/-- An IMPORT of `SNAP_SIZE` bytes holds while fewer are there, and completes with no fault otherwise (R43, R136). -/
theorem step_import_of_snapSize {s : State} {rest : List W32} (hr : s.faultCode = .none)
    (hd : decode s.cmdPort = .ok (.importSnap 104, rest)) :
    (s.dataIn.length < 104 → step s = .refused .holdingForData) ∧
    (104 ≤ s.dataIn.length → ∃ t, step s = .next t ∧ t.faultCode = .none) := by
  rw [step_of_command hr hd]
  exact ⟨exec_importSnap_short (s := takeWords _ s) hr, fun hdata =>
    ⟨_, exec_importSnap_of_available (s := takeWords _ s) hr hdata, (loadSnapshot_faultCode _ _).trans hr⟩⟩

/-- Settles O7: one lemma per hold; supplying bytes leaves the decoded command and `LIFE` as they were. -/
theorem engineHoldsUntilSupplied : Obligations.EngineHoldsUntilSupplied := by
  unfold Obligations.EngineHoldsUntilSupplied
  refine ⟨fun s hr hp => step_of_noWord hr hp, fun s hr hp => step_of_noLen hr ?_,
    fun s w1 rest more hr hl hp hshort => ?_, fun s rest more hr hp hshort => ?_⟩
  · rcases hp with hp | hp
    · simp only [hp, decode, decodeHead_update]
    · simp only [hp, decode, decodeHead_importSnap]
  · have hd : decode s.cmdPort = .ok (.update w1.toNat, rest) := hp ▸ decode_update_words w1 rest
    refine ⟨(step_update_of_live hr hl hd).1 hshort, fun hmore => ?_⟩
    exact (step_update_of_live (s := supply more s) hr hl hd).2 (by simpa using hmore)
  · have hd : decode s.cmdPort = .ok (.importSnap 104, rest) := hp ▸ decode_import_words _ rest
    refine ⟨(step_import_of_snapSize hr hd).1 hshort, fun hmore => ?_⟩
    exact (step_import_of_snapSize (s := supply more s) hr hd).2 (by simpa using hmore)

end Sys2Proof.Machine
end

section
/-!
SUPPORT. Words as bytes and bytes as words (20_memory.md R45, R46): the number a byte sequence stands for determines it.
-/

namespace Sys2Proof.Machine

/-! ### The number of a byte sequence -/

/-- Read with the first byte the most significant, a byte sequence is a numeral in base 256. -/
theorem natOfBytesBE_eq_ofDigits (d : List Byte) (acc : Nat) :
    natOfBytesBE d acc = acc * 256 ^ d.length + Nat.ofDigits 256 (d.reverse.map BitVec.toNat) := by
  induction d generalizing acc with
  | nil => simp [natOfBytesBE]
  | cons b d ih =>
    simp only [natOfBytesBE, ih, List.reverse_cons, List.map_append, List.map_cons, List.map_nil, Nat.ofDigits_append,
      Nat.ofDigits_singleton, List.length_map, List.length_reverse, List.length_cons]
    ring

theorem toNat_digits_lt (d : List Byte) : ∀ x ∈ d.map BitVec.toNat, x < 256 := by
  simpa using fun (b : Byte) (_ : b ∈ d) => b.isLt

theorem natOfBytesBE_lt (d : List Byte) : natOfBytesBE d 0 < 256 ^ d.length := by
  have h := Nat.ofDigits_lt_base_pow_length (b := 256) (by decide) (toNat_digits_lt d.reverse)
  simpa [natOfBytesBE_eq_ofDigits] using h

theorem natOfBytesBE_inj {d d' : List Byte} (hlen : d.length = d'.length) (h : natOfBytesBE d 0 = natOfBytesBE d' 0) :
    d = d' := by
  rw [natOfBytesBE_eq_ofDigits, natOfBytesBE_eq_ofDigits, Nat.zero_mul, Nat.zero_mul, Nat.zero_add, Nat.zero_add] at h
  have hdigits := Nat.ofDigits_inj_of_len_eq (by decide) (by simpa using hlen) (toNat_digits_lt _) (toNat_digits_lt _) h
  exact List.reverse_injective (List.map_injective_iff.2 BitVec.toNat_injective hdigits)

theorem natOfBytes_lt (e : Endian) (d : List Byte) : natOfBytes e d < 256 ^ d.length := by
  cases e with
  | little => simpa [natOfBytes] using natOfBytesBE_lt d.reverse
  | big => exact natOfBytesBE_lt d

theorem natOfBytes_inj {e : Endian} {d d' : List Byte} (hlen : d.length = d'.length)
    (h : natOfBytes e d = natOfBytes e d') : d = d' := by
  cases e with
  | little => exact List.reverse_injective (natOfBytesBE_inj (by simpa using hlen) h)
  | big => exact natOfBytesBE_inj hlen h

/-- Settles O20: the bytes of a word in the big order stand for the word. -/
theorem bigEndianBytes : Obligations.BigEndianBytes :=
  ⟨fun w => ⟨be32_length w, natOfBytes_snapWord32 .big w⟩, fun v => ⟨be64_length v, natOfBytes_snapWord64 .big v⟩,
    by decide⟩

/-! ### Words from bytes -/

/-- Four bytes are the bytes of the word they stand for. -/
theorem snapWord32_natOfBytes {e : Endian} {d : List Byte} (hd : d.length = 4) :
    snapWord32 e (BitVec.ofNat 32 (natOfBytes e d)) = d := by
  have hlt : natOfBytes e d < 2 ^ 32 := by simpa [hd] using natOfBytes_lt e d
  refine natOfBytes_inj (e := e) (by rw [snapWord32_length, hd]) ?_
  rw [natOfBytes_snapWord32, BitVec.toNat_ofNat, Nat.mod_eq_of_lt hlt]

/-- Eight bytes are the bytes of the word they stand for. -/
theorem snapWord64_natOfBytes {e : Endian} {d : List Byte} (hd : d.length = 8) :
    snapWord64 e (BitVec.ofNat 64 (natOfBytes e d)) = d := by
  have hlt : natOfBytes e d < 2 ^ 64 := by simpa [hd] using natOfBytes_lt e d
  refine natOfBytes_inj (e := e) (by rw [snapWord64_length, hd]) ?_
  rw [natOfBytes_snapWord64, BitVec.toNat_ofNat, Nat.mod_eq_of_lt hlt]

/-! ### Pieces of a byte sequence -/

theorem bytesFrom_length {d : List Byte} {i n : Nat} (h : i + n ≤ d.length) : (bytesFrom d i n).length = n := by
  simp only [bytesFrom, List.length_take, List.length_drop]
  omega

theorem bytesFrom_append_left {a : List Byte} (b : List Byte) {i n : Nat} (h : i + n ≤ a.length) :
    bytesFrom (a ++ b) i n = bytesFrom a i n := by
  unfold bytesFrom
  rw [List.drop_append_of_le_length (by omega), List.take_append_of_le_length (by simp; omega)]

theorem bytesFrom_append_right (a b : List Byte) (i n : Nat) : bytesFrom (a ++ b) (a.length + i) n = bytesFrom b i n := by
  rw [bytesFrom, List.drop_length_add_append, bytesFrom]

theorem byteAt_bytesFrom {d : List Byte} {n k : Nat} (i : Nat) (h : k < n) :
    byteAt (bytesFrom d i n) k = byteAt d (i + k) := by
  rw [bytesFrom, byteAt_take h, byteAt_drop]

theorem ext_byteAt {d d' : List Byte} (hlen : d.length = d'.length)
    (h : ∀ k < d.length, byteAt d k = byteAt d' k) : d = d' := by
  refine List.ext_getElem hlen fun k hk hk' => ?_
  rw [← byteAt_eq_getElem hk, ← byteAt_eq_getElem hk', h k hk]

end Sys2Proof.Machine
end

section
/-!
SUPPORT. The snapshot (20_memory.md R48, R49): what stands at each offset, and that its reading and its making are inverse.
-/

namespace Sys2Proof.Machine

/-! ### What stands where -/

/-- The `i`-th of words written one after another stands at offset `4i`. -/
theorem bytesFrom_words {e : Endian} {ws : List W32} {i : Nat} (h : i < ws.length) :
    bytesFrom (ws.flatMap (snapWord32 e)) (4 * i) 4 = snapWord32 e ws[i] := by
  induction ws generalizing i with
  | nil => cases h
  | cons w ws ih =>
    have hw := snapWord32_length e w
    cases i with
    | zero => exact List.take_left' hw
    | succ i =>
      have hoff : 4 * (i + 1) = (snapWord32 e w).length + 4 * i := by omega
      rw [List.flatMap_cons, hoff, bytesFrom_append_right, ih (Nat.lt_of_succ_lt_succ h), List.getElem_cons_succ]

/-- `H[i]` is bytes `4i .. 4i+3` (R48). -/
theorem snap_hash (e : Endian) (h : Hash) (c : W64) (b : Block) (i : Fin 8) :
    bytesFrom (snap e h c b) (4 * i.val) 4 = snapWord32 e h[i] := by
  have hlen := snapHash_length e h
  rw [snap, List.append_assoc, bytesFrom_append_left _ (by omega), bytesFrom_words (by simp)]
  rfl

/-- `COUNT` is bytes 32 to 39 (R48). -/
theorem snap_count (e : Endian) (h : Hash) (c : W64) (b : Block) :
    bytesFrom (snap e h c b) 32 8 = snapWord64 e c := by
  rw [snap, List.append_assoc, bytesFrom, List.drop_left' (snapHash_length e h), List.take_left' (snapWord64_length e c)]

/-- `H` and `COUNT` fill the 40 bytes before `BUF`. -/
theorem snapHashCount_length (e : Endian) (h : Hash) (c : W64) :
    (h.toList.flatMap (snapWord32 e) ++ snapWord64 e c).length = 40 := by
  rw [List.length_append, snapHash_length, snapWord64_length]

/-- `BUF[j]` is byte `40 + j` (R48). -/
theorem snap_buf (e : Endian) (h : Hash) (c : W64) (b : Block) {j : Nat} (hj : j < 64) :
    byteAt (snap e h c b) (40 + j) = b[j] := by
  rw [snap, ← snapHashCount_length e h c, byteAt_append_right, byteAt_eq_getElem (by simpa using hj),
    Vector.getElem_toList]

/-- Snapshots that differ only in `BUF`, from `f` on, agree below byte `40 + f`. -/
theorem byteAt_snap_congr {e : Endian} {h : Hash} {c : W64} {b b' : Block} {f k : Nat} (hf : f ≤ 64)
    (hb : ∀ (j : Nat) (hj : j < f), b[j] = b'[j]) (hk : k < 40 + f) :
    byteAt (snap e h c b) k = byteAt (snap e h c b') k := by
  by_cases h40 : k < 40
  · have hbefore : k < (h.toList.flatMap (snapWord32 e) ++ snapWord64 e c).length := by rwa [snapHashCount_length]
    exact (byteAt_append_left _ hbefore).trans (byteAt_append_left _ hbefore).symm
  · obtain ⟨j, rfl⟩ := Nat.exists_eq_add_of_le (Nat.le_of_not_lt h40)
    rw [snap_buf e h c b (by omega), snap_buf e h c b' (by omega), hb j (by omega)]

/-- Settles O24: each field by what stands at its offset, in the order of the configuration. -/
theorem snapshotLayout : Obligations.SnapshotLayout := by
  unfold Obligations.SnapshotLayout
  exact ⟨fun e h c b => ⟨snap_length e h c b, fun j => snap_buf e h c b j.isLt⟩,
    fun h c b i => ⟨snap_hash .little h c b i, snap_hash .big h c b i⟩,
    fun h c b => ⟨snap_count .little h c b, snap_count .big h c b⟩, rfl⟩

/-! ### Reading a snapshot -/

theorem snapWord32_unsnapH {d : List Byte} (e : Endian) (hd : d.length = 104) (i : Fin 8) :
    snapWord32 e (unsnapH e d)[i] = bytesFrom d (4 * i.val) 4 := by
  have hword : (unsnapH e d)[i] = BitVec.ofNat 32 (natOfBytes e (bytesFrom d (4 * i.val) 4)) := by simp [unsnapH]
  rw [hword, snapWord32_natOfBytes (bytesFrom_length (by omega))]

theorem snapWord64_unsnapCount {d : List Byte} (e : Endian) (hd : d.length = 104) :
    snapWord64 e (unsnapCount e d) = bytesFrom d 32 8 := by
  rw [unsnapCount, snapWord64_natOfBytes (bytesFrom_length (by omega))]

theorem unsnapBuf_getElem (d : List Byte) {j : Nat} (hj : j < 64) : (unsnapBuf d)[j] = byteAt d (40 + j) :=
  blockAt_getElem d 40 hj

theorem unsnapH_snap (e : Endian) (h : Hash) (c : W64) (b : Block) : unsnapH e (snap e h c b) = h := by
  refine Vector.ext fun i hi => ?_
  have hword := snap_hash e h c b ⟨i, hi⟩
  simp only [Fin.getElem_fin] at hword
  simp only [unsnapH, Vector.getElem_ofFn, hword, natOfBytes_snapWord32, BitVec.ofNat_toNat, BitVec.setWidth_eq]

theorem unsnapCount_snap (e : Endian) (h : Hash) (c : W64) (b : Block) : unsnapCount e (snap e h c b) = c := by
  rw [unsnapCount, snap_count, natOfBytes_snapWord64, BitVec.ofNat_toNat, BitVec.setWidth_eq]

theorem unsnapBuf_snap (e : Endian) (h : Hash) (c : W64) (b : Block) : unsnapBuf (snap e h c b) = b :=
  Vector.ext fun j hj => by rw [unsnapBuf_getElem _ hj, snap_buf e h c b hj]

/-- A snapshot is determined by the fields that stand in it. -/
theorem snap_unique {e : Endian} {h : Hash} {c : W64} {b : Block} {d : List Byte} (hd : d.length = 104)
    (hhash : ∀ i : Fin 8, snapWord32 e h[i] = bytesFrom d (4 * i.val) 4) (hcount : snapWord64 e c = bytesFrom d 32 8)
    (hbuf : ∀ (j : Nat) (hj : j < 64), b[j] = byteAt d (40 + j)) : snap e h c b = d := by
  refine ext_byteAt (by rw [snap_length, hd]) fun k hk => ?_
  rw [snap_length] at hk
  by_cases h32 : k < 32
  · have hpiece := (snap_hash e h c b ⟨k / 4, by omega⟩).trans (hhash _)
    have hbyte := congrArg (byteAt · (k % 4)) hpiece
    simpa only [byteAt_bytesFrom _ (Nat.mod_lt k (by decide : 4 > 0)), Nat.div_add_mod] using hbyte
  · by_cases h40 : k < 40
    · obtain ⟨j, rfl⟩ := Nat.exists_eq_add_of_le (Nat.le_of_not_lt h32)
      have hbyte := congrArg (byteAt · j) ((snap_count e h c b).trans hcount)
      simpa only [byteAt_bytesFrom 32 (show j < 8 by omega)] using hbyte
    · obtain ⟨j, rfl⟩ := Nat.exists_eq_add_of_le (Nat.le_of_not_lt h40)
      rw [snap_buf e h c b (by omega), hbuf]

/-- Settles O25: reading gives each field's bytes as they stand, and the fields determine the snapshot. -/
theorem snapAndUnsnapAreInverse : Obligations.SnapAndUnsnapAreInverse := by
  unfold Obligations.SnapAndUnsnapAreInverse
  refine ⟨fun e h c b => ⟨unsnapH_snap e h c b, unsnapCount_snap e h c b, unsnapBuf_snap e h c b⟩,
    fun e d hd => ?_, fun e d hd => ?_⟩
  · exact snap_unique hd (snapWord32_unsnapH e hd) (snapWord64_unsnapCount e hd) fun j hj => unsnapBuf_getElem d hj
  · exact ⟨snapWord32_unsnapH e hd, snapWord64_unsnapCount e hd, fun j => unsnapBuf_getElem d j.isLt⟩

end Sys2Proof.Machine
end

section
/-!
SUPPORT. The data-out stream (20_memory.md R42), repeated commands (R52), and the host's side of the interfaces (R40, R44).
-/

namespace Sys2Proof.Machine

/-! ### What is emitted -/

/-- A command that emits is FINAL or EXPORT, and has not faulted (R42). -/
theorem Completes.emits {i : Instr} {s t : State} (h : Completes s i t) (hne : t.dataOut ≠ s.dataOut) :
    (i = .exportSnap ∨ ∃ v, i = finalOf v) ∧ t.faultCode = s.faultCode := by
  cases h with
  | faulted i _ => exact absurd rfl hne
  | started v => exact absurd rfl hne
  | absorbed len _ _ => exact absurd (absorb_dataOut _ _) hne
  | finished v _ =>
    obtain ⟨-, -, -, -, -, hcode, -⟩ := finishMessage_spec v s
    exact ⟨.inr ⟨v, rfl⟩, hcode⟩
  | exported _ => exact ⟨.inl rfl, exportSnapshot_faultCode s⟩
  | imported _ => exact absurd (loadSnapshot_dataOut _ _) hne

/-- Settles O36: `exec_streams` says that data-out only grows, `Completes.emits` which commands make it grow. -/
theorem onlyFinalAndExportWriteDataOut : Obligations.OnlyFinalAndExportWriteDataOut := by
  unfold Obligations.OnlyFinalAndExportWriteDataOut
  intro i s t h
  obtain ⟨-, -, -, hout⟩ := exec_streams h
  refine ⟨hout, fun hne => ?_⟩
  obtain ⟨hr, hc⟩ := exec_completes h
  obtain ⟨rfl | ⟨v, rfl⟩, hcode⟩ := hc.emits hne
  · exact ⟨.inr (.inr rfl), hcode.trans hr⟩
  · exact ⟨by cases v <;> simp [finalOf], hcode.trans hr⟩

/-! ### Commands twice -/

theorem startMessage_startMessage (v : Variant) (s : State) : startMessage v (startMessage v s) = startMessage v s := rfl

/-- EXPORT sees the meaningful bytes of `BUF` as they are (R131). -/
theorem observedBuf_getElem_of_lt_fill {s : State} {j : Nat} (hj : j < fill s) :
    (observedBuf s)[j]'(hj.trans (fill_lt s)) = s.buf[j]'(hj.trans (fill_lt s)) := by
  unfold observedBuf
  split
  · rw [forgetBuf_getElem, if_pos hj]
  · rfl

theorem observedBuf_of_not_live {s : State} (h : s.life ≠ .live) : observedBuf s = s.buf := if_neg h

theorem fill_exportSnapshot (s : State) : fill (exportSnapshot s) = fill s := by
  rw [fill, exportSnapshot_count, fill]

/-- A second EXPORT sees the same meaningful bytes of `BUF`. -/
theorem observedBuf_exportSnapshot_of_lt_fill {s : State} {j : Nat} (hj : j < fill s) :
    (observedBuf (exportSnapshot s))[j]'(hj.trans (fill_lt s)) = (observedBuf s)[j]'(hj.trans (fill_lt s)) := by
  have hj' : j < fill (exportSnapshot s) := by rwa [fill_exportSnapshot]
  simp only [observedBuf_getElem_of_lt_fill hj, observedBuf_getElem_of_lt_fill hj', exportSnapshot_buf]

theorem observedBuf_exportSnapshot_of_not_live {s : State} (h : s.life ≠ .live) :
    observedBuf (exportSnapshot s) = observedBuf s := by
  have h' : (exportSnapshot s).life ≠ .live := by rwa [exportSnapshot_life]
  rw [observedBuf_of_not_live h, observedBuf_of_not_live h', exportSnapshot_buf]

theorem execAll_init_twice {s : State} (hr : s.faultCode = .none) (v : Variant) :
    execAll [initOf v, initOf v] s = .next (startMessage v s) := by
  simp only [execAll, exec_initOf hr, exec_initOf (s := startMessage v s) hr, startMessage_startMessage]

theorem execAll_export_twice {s : State} (hr : s.faultCode = .none) (hl : s.life ≠ .uninit) :
    execAll [.exportSnap, .exportSnap] s = .next (exportSnapshot (exportSnapshot s)) := by
  have hr' : (exportSnapshot s).faultCode = .none := (exportSnapshot_faultCode s).trans hr
  have hl' : (exportSnapshot s).life ≠ .uninit := by rwa [exportSnapshot_life]
  simp only [execAll, exec_exportSnap_of_initialized hr hl, exec_exportSnap_of_initialized hr' hl']

/-- What two EXPORTs emit: EXPORT writes no register, so the images differ at most in what is seen of `BUF`. -/
theorem exportSnapshot_twice_dataOut (s : State) :
    (exportSnapshot (exportSnapshot s)).dataOut = s.dataOut ++ snap s.config.snapEndian s.h s.count (observedBuf s) ++
      snap s.config.snapEndian s.h s.count (observedBuf (exportSnapshot s)) := by
  simp only [exportSnapshot_dataOut, exportSnapshot_config, exportSnapshot_h, exportSnapshot_count]

/-- Settles O31: INIT's writes are idempotent, and two EXPORTs see the same `BUF` below the fill level. -/
theorem repeatedInitAndExport : Obligations.RepeatedInitAndExport := by
  unfold Obligations.RepeatedInitAndExport
  refine ⟨fun s v hr => ⟨startMessage v s, ?_, execAll_init_twice hr v⟩, fun s hr hl =>
    ⟨_, _, _, execAll_export_twice hr hl, exportSnapshot_twice_dataOut s, snap_length _ _ _ _, snap_length _ _ _ _,
      fun k => ?_, fun hw => ?_⟩⟩
  · simp only [execAll, exec_initOf hr]
  · exact byteAt_snap_congr (fill_lt s).le fun j hj => (observedBuf_exportSnapshot_of_lt_fill hj).symm
  · rw [observedBuf_exportSnapshot_of_not_live (by simp [hw])]

/-! ### The host -/

/-- Settles O49: one case per act; what is added or taken is the act's own operand. -/
theorem hostActsReachNoRegister : Obligations.HostActsReachNoRegister := by
  unfold Obligations.HostActsReachNoRegister
  intro act s
  cases act with
  | issueWords ws => exact ⟨ws, [], [], s.dataOut, by simp [issue]⟩
  | supplyBytes bs => exact ⟨[], bs, [], s.dataOut, by simp [supply]⟩
  | takeBytes n =>
    exact ⟨[], [], s.dataOut.take n, s.dataOut.drop n, by simp [takeDataOut, HostAct.run]⟩
  | readStatus => exact ⟨[], [], [], s.dataOut, by simp [HostAct.run, sampleStatus]⟩
  | readFaultWord => exact ⟨[], [], [], s.dataOut, by simp [HostAct.run, sampleFaultWord]⟩

end Sys2Proof.Machine
end

section
/-!
SUPPORT. The command table (30_encoding.md R64) against the decoder: which words 0 are legal and what each begins, that only
encodings decode, and how many bytes each command takes and emits (R68).
-/

namespace Sys2Proof.Machine

/-! ### Encodings decode -/

/-- Settles O1: `decode_encode`, one case per command. -/
theorem decodeOfEncode : Obligations.DecodeOfEncode := by
  unfold Obligations.DecodeOfEncode
  intro i rest hi
  exact decode_encode hi rest

/-- Settles O3: each row is the words of a well-formed instruction, which is read back from them. -/
theorem tableWordsDecode : Obligations.TableWordsDecode :=
  ⟨decode_encode (i := .init256) rfl [], decode_encode (i := .init224) rfl [], decode_encode (i := .update 3) rfl [],
    decode_encode (i := .final256) rfl [], decode_encode (i := .final224) rfl [],
    decode_encode (i := .exportSnap) rfl [], decode_encode (i := .importSnap 104) rfl []⟩

/-! ### The legal words 0 -/

/-- The seven legal words 0 (R64), each with what it begins. -/
def commandTable : List (W32 × Head) :=
  [(0x00000000#32, .single .init256), (0x00000008#32, .single .init224), (0x00000001#32, .needsLenUpdate),
   (0x00000002#32, .single .final256), (0x0000000A#32, .single .final224), (0x00000003#32, .single .exportSnap),
   (0x00000004#32, .needsLenImport)]

/-- A word whose reserved bits are 0 is made of its two other fields (R61). -/
theorem eq_commandWord_of_rsvField {w0 : W32} (h : rsvField w0 = 0#28) :
    w0 = commandWord (opField w0) (varField w0) := by
  have hlt : w0.toNat < 16 := by
    have hrsv := congrArg BitVec.toNat h
    simp only [rsvField, BitVec.extractLsb'_toNat, Nat.shiftRight_eq_div_pow, BitVec.toNat_ofNat] at hrsv
    have := w0.isLt
    omega
  have hsmall : ∀ n : Fin 16, (BitVec.ofNat 32 n : W32) =
      commandWord (opField (BitVec.ofNat 32 n)) (varField (BitVec.ofNat 32 n)) := by decide
  have hw0 := hsmall ⟨w0.toNat, hlt⟩
  rwa [BitVec.ofNat_toNat, BitVec.setWidth_eq] at hw0

/-- What `OP` and `VAR` select is the row of the table with the word they make (R67). -/
theorem mem_commandTable_of_decodeOp {op : BitVec 3} {v : Variant} {hd : Head} (h : decodeOp op.toNat v = .ok hd) :
    (commandWord op v, hd) ∈ commandTable := by
  have hall : ∀ op : BitVec 3, ∀ v ∈ [Variant.sha256, .sha224], ∀ hd ∈ (decodeOp op.toNat v).toOption,
      (commandWord op v, hd) ∈ commandTable := by decide
  exact hall op v (by cases v <;> decide) hd (by rw [h]; rfl)

/-- The decoder accepts a word 0 exactly as the table says. -/
theorem decodeHead_ok_iff {w0 : W32} {hd : Head} : decodeHead w0 = .ok hd ↔ (w0, hd) ∈ commandTable := by
  constructor
  · intro h
    unfold decodeHead at h
    split at h
    · rename_i hrsv
      rw [eq_commandWord_of_rsvField hrsv]
      exact mem_commandTable_of_decodeOp h
    · cases h
  · have hrows : ∀ row ∈ commandTable, decodeHead row.1 = .ok row.2 := by decide
    exact hrows (w0, hd)

theorem decodeHead_isOk_iff (w0 : W32) : (∃ hd, decodeHead w0 = .ok hd) ↔ w0 ∈ commandTable.map Prod.fst := by
  simp only [decodeHead_ok_iff, List.mem_map, Prod.exists, exists_and_right, exists_eq_right]

theorem decodeHead_isError_iff (w0 : W32) : (∃ why, decodeHead w0 = .error why) ↔ ¬ ∃ hd, decodeHead w0 = .ok hd := by
  cases decodeHead w0 <;> simp

/-- The words of the table are those that no clause of R66 excludes. -/
theorem not_mem_commandTable_iff (w0 : W32) :
    w0 ∉ commandTable.map Prod.fst ↔
      (w0.toNat / 16 ≠ 0 ∨ w0.toNat % 8 = 5 ∨ w0.toNat % 8 = 6 ∨ w0.toNat % 8 = 7 ∨
        (w0.toNat / 8 % 2 = 1 ∧ (w0.toNat % 8 = 1 ∨ w0.toNat % 8 = 3 ∨ w0.toNat % 8 = 4))) := by
  simp only [commandTable, List.map_cons, List.map_nil, List.mem_cons, List.not_mem_nil, or_false,
    ← BitVec.toNat_inj, BitVec.toNat_ofNat]
  omega

/-- Settles O4: the decoder accepts the words of the table, and those are the words the three clauses leave. -/
theorem illegalWordsAreTheOthers : Obligations.IllegalWordsAreTheOthers := by
  unfold Obligations.IllegalWordsAreTheOthers
  intro w0
  refine ⟨?_, decodeHead_isOk_iff w0⟩
  rw [decodeHead_isError_iff, decodeHead_isOk_iff, not_mem_commandTable_iff]

/-! ### Only encodings decode -/

/-- A word 0 that begins a one-word command is all of its encoding, and the command is well formed. -/
theorem encode_of_decodeHead_single {w0 : W32} {i : Instr} (h : decodeHead w0 = .ok (.single i)) :
    i.wellFormed = true ∧ encode i = [w0] := by
  have hrows : ∀ row ∈ commandTable, ∀ i, row.2 = .single i → i.wellFormed = true ∧ encode i = [row.1] := by
    simp [commandTable, encode, Instr.wellFormed]
  exact hrows _ (decodeHead_ok_iff.1 h) i rfl

theorem eq_of_decodeHead_update {w0 : W32} (h : decodeHead w0 = .ok .needsLenUpdate) : w0 = 0x00000001#32 := by
  simpa [commandTable] using decodeHead_ok_iff.1 h

theorem eq_of_decodeHead_import {w0 : W32} (h : decodeHead w0 = .ok .needsLenImport) : w0 = 0x00000004#32 := by
  simpa [commandTable] using decodeHead_ok_iff.1 h

/-- `LEN` from a word fits a word, and is that word (R63). -/
theorem lenFits_lenOperand (w1 : W32) : lenFits (lenOperand w1) = true := decide_eq_true w1.isLt

theorem ofNat_lenOperand (w1 : W32) : BitVec.ofNat 32 (lenOperand w1) = w1 := by
  rw [lenOperand, BitVec.ofNat_toNat, BitVec.setWidth_eq]

/-- Settles O2: one case per branch of the decoder; the table gives word 0, and `LEN` is word 1. -/
theorem decodeOnlyEncodings : Obligations.DecodeOnlyEncodings := by
  unfold Obligations.DecodeOnlyEncodings
  intro ws rest i h
  unfold decode at h
  split at h
  · cases h
  · split at h
    · cases h
    · rename_i hd
      cases h
      obtain ⟨hwf, henc⟩ := encode_of_decodeHead_single hd
      exact ⟨hwf, by rw [henc]; rfl⟩
    · cases h
    · rename_i w1 _ hd
      cases h
      refine ⟨lenFits_lenOperand w1, ?_⟩
      rw [encode, encodeWord0_update, ofNat_lenOperand, eq_of_decodeHead_update hd]
      rfl
    · cases h
    · rename_i w1 _ hd
      cases h
      refine ⟨lenFits_lenOperand w1, ?_⟩
      rw [encode, encodeWord0_importSnap, ofNat_lenOperand, eq_of_decodeHead_import hd]
      rfl

/-! ### Bytes taken and emitted -/

/-- The output of a FINAL is as long as its variant's digest (R65, R116). -/
theorem digest_take_length (v : Variant) (h : Hash) :
    ((digestBytes h).take (digestSize v)).length = outputSize (finalOf v) := by
  rw [List.length_take, digestBytes_length]
  cases v <;> rfl

/-- A command that has not faulted has taken `payloadSize` bytes from the front of data-in and appended `outputSize` bytes to
data-out (R68). -/
theorem Completes.framing {i : Instr} {s t : State} (h : Completes s i t) (hok : t.faultCode = .none) :
    ∃ taken emitted : List Byte, s.dataIn = taken ++ t.dataIn ∧ t.dataOut = s.dataOut ++ emitted ∧
      taken.length = payloadSize i ∧ emitted.length = outputSize i := by
  cases h with
  | faulted i hfault => exact absurd hok hfault
  | started v => exact ⟨[], [], rfl, (List.append_nil _).symm, by cases v <;> rfl, by cases v <;> rfl⟩
  | absorbed len _ hdata =>
    exact ⟨s.dataIn.take len, [], by simp, by simp, List.length_take_of_le hdata, rfl⟩
  | finished v _ =>
    obtain ⟨hout, -, -, -, -, -, -, -, hin, -⟩ := finishMessage_spec v s
    exact ⟨[], _, hin.symm, hout, by cases v <;> rfl, digest_take_length v _⟩
  | exported _ => exact ⟨[], _, (exportSnapshot_dataIn s).symm, exportSnapshot_dataOut s, rfl, snap_length _ _ _ _⟩
  | imported hdata =>
    exact ⟨s.dataIn.take 104, [], by simp, by simp, List.length_take_of_le hdata, rfl⟩

/-- An IMPORT of another length than `SNAP_SIZE` has a next state only with its fault (R133, R176). -/
theorem exec_importSnap_faults {len : Nat} {s t : State} (h : exec (.importSnap len) s = .next t) (hlen : len ≠ 104) :
    t.faultCode ≠ .none := by
  obtain ⟨-, ⟨-, rfl⟩ | ⟨heq, -⟩⟩ := exec_importSnap_next h
  · exact nofun
  · exact absurd heq hlen

/-- Settles O37: a fault leaves the streams, and what a command without one takes and emits is `Completes.framing`. -/
theorem dataFraming : Obligations.DataFraming := by
  unfold Obligations.DataFraming
  intro i s t h
  obtain ⟨hr, hc⟩ := exec_completes h
  have himport : ∀ len, i = .importSnap len → len ≠ 104 → t.faultCode ≠ .none := by
    rintro len rfl hlen
    exact exec_importSnap_faults h hlen
  refine ⟨fun hfault => ?_, himport, fun hok => ?_⟩
  · rcases hc.fault_registers with ⟨-, rfl⟩ | ⟨hcode, -⟩
    · exact ⟨rfl, rfl⟩
    · exact absurd (hcode.trans hr) hfault
  · obtain ⟨taken, emitted, hin, hout, htaken, hemitted⟩ := hc.framing hok
    refine ⟨taken, emitted, hin, hout, htaken.trans ?_, hemitted.trans ?_⟩
    · cases i with
      | importSnap len =>
        have hlen : len = 104 := by_contra fun hne => himport len rfl hne hok
        exact if_pos hlen
      | _ => rfl
    · cases i <;> rfl

end Sys2Proof.Machine
end

section
/-!
SUPPORT. The assembler (30_encoding.md R69, R70): what a line with a payload assembles to.
-/

namespace Sys2Proof.Machine

/-- Settles O53: expansion is line by line, and a pseudo-command and its expansion expand to the same lines. -/
theorem pseudoCommandsExpand : Obligations.PseudoCommandsExpand := by
  unfold Obligations.PseudoCommandsExpand
  intro before after v len p
  simp only [assemble, List.flatMap_append, List.flatMap_cons, AsmLine.expand, List.cons_append, List.nil_append,
    and_self]

/-- A program of one real command is that command's words and bytes. -/
theorem assemble_singleton {l : AsmLine} (hl : l.expand = [l]) : assemble [l] = l.assemble := by
  simp only [assemble, List.flatMap_cons, List.flatMap_nil, hl, List.append_nil, assembleReal]
  cases l.assemble <;> simp

theorem payloadCommand_of_length {i : Instr} {len : Nat} {p : Payload} {d : List Byte} (hp : p.bytes = some d)
    (hi : i.wellFormed = true) (hlen : d.length = len) :
    payloadCommand i len p = some { words := encode i, dataIn := d } := by
  simp [payloadCommand, hp, hi, hlen]

theorem payloadCommand_of_length_ne {i : Instr} {len : Nat} {p : Payload} {d : List Byte} (hp : p.bytes = some d)
    (hlen : d.length ≠ len) : payloadCommand i len p = none := by
  simp [payloadCommand, hp, hlen]

/-- Settles O54: an UPDATE line is a command with a payload, and so is an IMPORT line in hex; text is refused for IMPORT. -/
theorem assembledPayloads : Obligations.AssembledPayloads := by
  unfold Obligations.AssembledPayloads
  intro len p d hp
  rw [assemble_singleton (l := .updateLine len p) rfl, assemble_singleton (l := .importLine len p) rfl]
  refine ⟨fun hlen hfits => ?_, ?_, fun hne => ⟨payloadCommand_of_length_ne hp hne, ?_⟩⟩
  · exact payloadCommand_of_length (i := .update len) hp (decide_eq_true hfits) hlen
  · rintro hlen hfits ⟨ds, rfl⟩
    exact payloadCommand_of_length (i := .importSnap len) hp (decide_eq_true hfits) hlen
  · cases p with
    | text cs => rfl
    | hex ds => exact payloadCommand_of_length_ne hp hne

end Sys2Proof.Machine
end

section
/-!
SUPPORT. The variant initializer (40_init.md): INIT against the words of R83 and R84.
-/

namespace Sys2Proof.Machine

/-- Settles O9: `exec_initOf` for each variant; `startMessage` is the three writes, with the words that R83 and R84 list. -/
theorem initStartsAMessage : Obligations.InitStartsAMessage := by
  unfold Obligations.InitStartsAMessage
  intro s hr
  constructor
  · exact exec_initOf hr .sha256
  · exact exec_initOf hr .sha224

end Sys2Proof.Machine
end

section
/-!
SUPPORT. Absorptions one after another (41_update.md R101): they come to one absorption of the joined bytes.
-/

namespace Sys2Proof.Machine

/-! ### The whole blocks of a byte sequence -/

/-- The whole 64-byte blocks of a byte sequence, in order. -/
def wholeBlocks (m : List Byte) : List Block := blocksOf m (m.length / 64)

/-- The bytes of a sequence after its whole blocks. -/
def leftover (m : List Byte) : List Byte := m.drop (64 * (m.length / 64))

theorem wholeBlocks_append (a b : List Byte) :
    wholeBlocks (a ++ b) = wholeBlocks a ++ wholeBlocks (leftover a ++ b) :=
  (blocksOf_append a b).1

theorem leftover_append (a b : List Byte) : leftover (a ++ b) = leftover (leftover a ++ b) :=
  (blocksOf_append a b).2

theorem wholeBlocks_of_short {m : List Byte} (h : m.length < 64) : wholeBlocks m = [] := by
  rw [wholeBlocks, Nat.div_eq_of_lt h, blocksOf_zero]

theorem leftover_of_short {m : List Byte} (h : m.length < 64) : leftover m = m := by
  rw [leftover, Nat.div_eq_of_lt h, Nat.mul_zero, List.drop_zero]

theorem leftover_length (m : List Byte) : (leftover m).length = m.length % 64 := by
  rw [leftover, List.length_drop]
  omega

/-! ### Absorptions one after another -/

/-- Between `s` and `t` exactly the bytes `d` have been absorbed, in whatever pieces (R101): the bytes carried by `s` and then `d`
form one sequence, whose whole blocks have been transformed in order and whose rest `t` carries. -/
structure Absorbed (d : List Byte) (s t : State) : Prop where
  h         : t.h = transform (t1Of s.config.transform) s.h (wholeBlocks (carried s ++ d))
  remainder : carried t = leftover (carried s ++ d)
  count     : t.count = s.count + BitVec.ofNat 64 d.length
  calls     : ∃ new, t.calls = s.calls ++ new ∧ new.flatMap (·.blocks) = wholeBlocks (carried s ++ d)
  dataOut   : t.dataOut = s.dataOut
  life      : t.life = s.life
  faultCode : t.faultCode = s.faultCode
  config    : t.config = s.config

theorem carried_short (s : State) : (carried s).length < 64 := by
  rw [carried_length]
  exact fill_lt s

theorem Absorbed.nil (s : State) : Absorbed [] s s where
  h := by rw [List.append_nil, wholeBlocks_of_short (carried_short s), transform_nil]
  remainder := by rw [List.append_nil, leftover_of_short (carried_short s)]
  count := (BitVec.add_zero _).symm
  calls := ⟨[], (List.append_nil _).symm, by rw [List.append_nil, wholeBlocks_of_short (carried_short s), List.flatMap_nil]⟩
  dataOut := rfl
  life := rfl
  faultCode := rfl
  config := rfl

/-- What is absorbed in two goes is absorbed in one: the second go begins with what the first left. -/
theorem Absorbed.trans {a b : List Byte} {s t u : State} (hst : Absorbed a s t) (htu : Absorbed b t u) :
    Absorbed (a ++ b) s u where
  h := by
    rw [htu.h, hst.h, hst.remainder, hst.config, ← List.append_assoc, wholeBlocks_append (carried s ++ a) b, transform_append]
  remainder := by rw [htu.remainder, hst.remainder, ← List.append_assoc, leftover_append (carried s ++ a) b]
  count := by rw [htu.count, hst.count, List.length_append, BitVec.ofNat_add, BitVec.add_assoc]
  calls := by
    obtain ⟨x, hx, hxb⟩ := hst.calls
    obtain ⟨y, hy, hyb⟩ := htu.calls
    refine ⟨x ++ y, by rw [hy, hx, List.append_assoc], ?_⟩
    rw [List.flatMap_append, hxb, hyb, hst.remainder, ← List.append_assoc, wholeBlocks_append (carried s ++ a) b]
  dataOut := htu.dataOut.trans hst.dataOut
  life := htu.life.trans hst.life
  faultCode := htu.faultCode.trans hst.faultCode
  config := htu.config.trans hst.config

/-- What is pending on data-in at the start has no part in it. -/
theorem Absorbed.of_dataIn {d : List Byte} {s t : State} (bs : List Byte) (h : Absorbed d { s with dataIn := bs } t) :
    Absorbed d s t :=
  ⟨h.h, h.remainder, h.count, h.calls, h.dataOut, h.life, h.faultCode, h.config⟩

/-- One absorption does what its name says, on the fast path and on the slow one (R90). -/
theorem absorbed_absorb (d : List Byte) (s : State) : Absorbed d s (absorb d s) where
  h := absorb_h d s
  remainder := absorb_carried d s
  count := absorb_count d s
  calls := by
    refine ⟨_, absorb_calls d s, ?_⟩
    split
    · rename_i hshort
      rw [wholeBlocks_of_short hshort, List.flatMap_nil]
    · exact slowCalls_blocks (by omega)
  dataOut := absorb_dataOut d s
  life := absorb_life d s
  faultCode := absorb_faultCode d s
  config := absorb_config d s

/-- The fill level is the length of what is carried. -/
theorem Absorbed.fill {d : List Byte} {s t : State} (h : Absorbed d s t) : fill t = (carried s ++ d).length % 64 := by
  rw [← carried_length, h.remainder, leftover_length]

/-- The padding and the length suffix are two absorptions (R114). -/
theorem absorbed_absorbSuffix (s : State) : Absorbed (suffixBytes s) s (absorbSuffix s) :=
  (absorbed_absorb _ s).trans (absorbed_absorb _ _)

/-- The blocks transformed while `d` was absorbed. -/
theorem Absorbed.blocks {d : List Byte} {s t : State} (h : Absorbed d s t) :
    blocksSince s t = wholeBlocks (carried s ++ d) := by
  obtain ⟨new, hcalls, hblocks⟩ := h.calls
  rw [blocksSince, hcalls, List.drop_left, hblocks]

end Sys2Proof.Machine
end

section
/-!
SUPPORT. UPDATE (41_update.md R90 to R98): the bytes carried in the buffer and its payload as one sequence, on the fast path and on the
slow one.
-/

namespace Sys2Proof.Machine

/-! ### The payload -/

/-- UPDATE's absorption of its payload, from the state whose data-in still holds it. -/
theorem absorbed_payload (s : State) (len : Nat) :
    Absorbed (s.dataIn.take len) s (absorb (s.dataIn.take len) { s with dataIn := s.dataIn.drop len }) :=
  (absorbed_absorb _ _).of_dataIn _

theorem absorb_payload_calls (s : State) (len : Nat) :
    (absorb (s.dataIn.take len) { s with dataIn := s.dataIn.drop len }).calls =
      s.calls ++ (if (carried s ++ s.dataIn.take len).length < 64 then [] else slowCalls (carried s ++ s.dataIn.take len)) :=
  absorb_calls _ _

theorem payload_length {s : State} {len : Nat} (hd : len ≤ s.dataIn.length) :
    (carried s ++ s.dataIn.take len).length = fill s + len := by
  rw [List.length_append, carried_length, List.length_take_of_le hd]

/-- Settles O10: the count, the fold and the carried bytes are those of `Absorbed`; the rest is the frame of an absorption. -/
theorem updateAbsorbsItsPayload : Obligations.UpdateAbsorbsItsPayload := by
  unfold Obligations.UpdateAbsorbsItsPayload
  intro s len hr hl hd
  have habs := absorbed_payload s len
  refine ⟨_, exec_update_of_live hr hl hd, ?_, ?_, ?_, absorb_dataIn _ _, habs.life.trans hl, habs.faultCode.trans hr,
    absorb_faultWord _ _, absorb_cmdPort _ _, habs.dataOut, absorb_cmdIndex _ _, habs.config⟩
  · rw [habs.count, List.length_take_of_le hd, BitVec.toNat_add, BitVec.toNat_ofNat, Nat.add_mod_mod]
  · rw [← payload_length hd]
    exact habs.h
  · rw [← payload_length hd]
    exact habs.remainder

/-- Settles O13: the empty absorption is the identity; the LIFE check comes before the payload. -/
theorem emptyUpdateIsANoOp : Obligations.EmptyUpdateIsANoOp := by
  unfold Obligations.EmptyUpdateIsANoOp
  intro s hr
  refine ⟨fun hl => ?_, fun hl => ?_⟩
  · rw [exec_update_of_live hr hl (Nat.zero_le _)]
    exact congrArg Host.Outcome.next (absorb_nil s)
  · exact (whenRunning_of_running hr _).trans (ifLive_of_not_live _ hl _)

/-! ### The fast path -/

theorem absorb_of_fits {d : List Byte} {s : State} (h : fill s + d.length < 64) :
    absorb d s = writeBuf (fill s) d (addCount d.length s) :=
  if_pos h

/-- Settles O11: on the fast path the absorption is a write at offset `partial` and no more. -/
theorem updateFastPath : Obligations.UpdateFastPath := by
  unfold Obligations.UpdateFastPath
  intro s len hr hl hd hfits
  have hlen := List.length_take_of_le hd
  have habsorb := absorb_of_fits (d := s.dataIn.take len) (s := { s with dataIn := s.dataIn.drop len }) (by rwa [hlen])
  refine ⟨_, exec_update_of_live hr hl hd, ?_, ?_, ?_, fun i => ?_⟩
  · rw [habsorb, writeBuf_h, addCount_h]
  · rw [habsorb, writeBuf_calls, addCount_calls]
  · rw [absorb_fill, hlen]
    exact Nat.mod_eq_of_lt hfits
  · simp only [Fin.getElem_fin]
    rw [habsorb, writeBuf_getElem _ _ _ i.isLt, hlen]
    refine ⟨fun hbefore => ?_, fun hfrom hto => ?_⟩
    · exact if_neg fun hin => absurd hin.1 (Nat.not_le.2 hbefore)
    · exact (if_pos ⟨hfrom, hto⟩).trans (byteAt_take (Nat.sub_lt_left_of_lt_add hfrom hto))

/-! ### The slow path, block by block -/

theorem byteAt_carried {s : State} {i : Nat} (h : i < fill s) :
    byteAt (carried s) i = s.buf[i]'(h.trans (fill_lt s)) := by
  rw [byteAt_eq_getElem (by rwa [carried_length])]
  simp [carried]

/-- After the carried bytes comes the payload, as it stands on data-in. -/
theorem byteAt_payload {s : State} {len k : Nat} (h : k < len) :
    byteAt (carried s ++ s.dataIn.take len) (fill s + k) = byteAt s.dataIn k := by
  rw [← carried_length s, byteAt_append_right, byteAt_take h]

/-- The buffer that the slow path transforms first: the carried bytes, then the head of data-in (R93). -/
def filledBlock (s : State) : Block := Vector.ofFn fun i : Fin 64 =>
  if i.val < fill s then s.buf[i] else byteAt s.dataIn (i.val - fill s)

/-- `q`: how many whole blocks follow in the payload after the bytes that fill the buffer (R95). -/
def directCount (s : State) (len : Nat) : Nat := (len - (64 - fill s)) / 64

/-- The blocks that the slow path transforms straight from the payload (R95). -/
def directBlocks (s : State) (q : Nat) : List Block :=
  (List.range q).map fun k => blockAt s.dataIn (64 - fill s + 64 * k)

theorem blockAt_payload_zero {s : State} {len : Nat} (h : 64 ≤ fill s + len) :
    blockAt (carried s ++ s.dataIn.take len) 0 = filledBlock s := by
  refine Vector.ext fun i hi => ?_
  rw [blockAt_getElem _ _ hi, Nat.zero_add, filledBlock, Vector.getElem_ofFn]
  split
  · rename_i hbefore
    rw [byteAt_append_left _ (by rwa [carried_length]), byteAt_carried hbefore, Fin.getElem_fin]
  · rename_i hfrom
    obtain ⟨k, rfl⟩ := Nat.exists_eq_add_of_le (Nat.le_of_not_lt hfrom)
    rw [byteAt_payload (by omega), Nat.add_sub_cancel_left]

theorem blocksOf_payload_drop {s : State} {len q : Nat} (h : 64 + 64 * q ≤ fill s + len) :
    blocksOf ((carried s ++ s.dataIn.take len).drop 64) q = directBlocks s q := by
  have hfill := fill_lt s
  refine List.map_congr_left fun k hk => ?_
  have hkq := List.mem_range.1 hk
  rw [blockAt_drop]
  refine blockAt_congr fun j hj => ?_
  rw [show 64 + 64 * k + j = fill s + (64 - fill s + 64 * k + j) by omega, byteAt_payload (by omega)]

/-- The blocks of the slow path: one to fill the buffer, then the direct ones. -/
theorem payload_blocks {s : State} {len : Nat} (hd : len ≤ s.dataIn.length) (hslow : 64 ≤ fill s + len) :
    (carried s ++ s.dataIn.take len).length / 64 = 1 + directCount s len := by
  have hfill := fill_lt s
  rw [payload_length hd, directCount]
  omega

theorem payload_length_mod {s : State} {len : Nat} (hd : len ≤ s.dataIn.length) (hslow : 64 ≤ fill s + len) :
    (carried s ++ s.dataIn.take len).length % 64 = (len - (64 - fill s)) % 64 := by
  have hfill := fill_lt s
  rw [payload_length hd]
  omega

theorem wholeBlocks_payload {s : State} {len : Nat} (hd : len ≤ s.dataIn.length) (hslow : 64 ≤ fill s + len) :
    wholeBlocks (carried s ++ s.dataIn.take len) = filledBlock s :: directBlocks s (directCount s len) := by
  have hq := payload_blocks hd hslow
  have hlen := payload_length hd
  rw [wholeBlocks, hq, blocksOf_add, blocksOf_succ, blocksOf_zero, List.nil_append, blockAt_payload_zero hslow,
    blocksOf_payload_drop (by omega), List.singleton_append]

/-- The calls of the slow path: none on the payload where no whole block follows (R94, R95). -/
theorem slowCalls_payload {s : State} {len : Nat} (hd : len ≤ s.dataIn.length) (hslow : 64 ≤ fill s + len) :
    slowCalls (carried s ++ s.dataIn.take len) =
      { src := .buf, blocks := [filledBlock s] } :: (if directCount s len = 0 then [] else
        [{ src := .data, blocks := directBlocks s (directCount s len) }]) := by
  have hq := payload_blocks hd hslow
  have hlen := payload_length hd
  have hdrop : ((carried s ++ s.dataIn.take len).drop 64).length / 64 = directCount s len := by
    rw [List.length_drop]
    omega
  rw [slowCalls, hdrop, blockAt_payload_zero hslow, blocksOf_payload_drop (by omega)]
  by_cases hzero : directCount s len = 0
  · rw [if_pos hzero, if_neg (by omega)]
  · rw [if_neg hzero, if_pos (by omega)]

/-- The bytes carried on are the last of the payload (R96). -/
theorem byteAt_leftover_payload {s : State} {len i : Nat} (hd : len ≤ s.dataIn.length) (hslow : 64 ≤ fill s + len)
    (hi : i < (len - (64 - fill s)) % 64) :
    byteAt (leftover (carried s ++ s.dataIn.take len)) i = byteAt s.dataIn (64 - fill s + 64 * directCount s len + i) := by
  have hfill := fill_lt s
  have hq : directCount s len = (len - (64 - fill s)) / 64 := rfl
  rw [leftover, payload_blocks hd hslow, byteAt_drop,
    show 64 * (1 + directCount s len) + i = fill s + (64 - fill s + 64 * directCount s len + i) by omega,
    byteAt_payload (by omega)]

/-- Settles O12: the carried bytes and the payload are one sequence, whose block 0 is the filled buffer, whose further blocks are the
direct ones, and whose rest is carried. -/
theorem updateSlowPath : Obligations.UpdateSlowPath := by
  unfold Obligations.UpdateSlowPath
  intro s len hr hl hd hslow f q e filled direct
  have habs := absorbed_payload s len
  have hfill := habs.fill.trans (payload_length_mod hd hslow)
  refine ⟨_, exec_update_of_live hr hl hd, ?_, ?_, hfill, fun i hi => ?_⟩
  · have hlong : ¬ (carried s ++ s.dataIn.take len).length < 64 := by
      rw [payload_length hd]
      omega
    rw [absorb_payload_calls, if_neg hlong, slowCalls_payload hd hslow]
    rfl
  · rw [habs.h, wholeBlocks_payload hd hslow]
    rfl
  · have hbyte := byteAt_leftover_payload hd hslow hi
    rw [← habs.remainder, byteAt_carried (hfill.symm ▸ hi)] at hbyte
    exact hbyte

end Sys2Proof.Machine
end

section
/-!
SUPPORT. A message in chunks (41_update.md R101) and its digest (42_final.md R114, R116).
-/

namespace Sys2Proof.Machine

/-! ### A message in chunks -/

theorem execAll_cons {i : Instr} {is : List Instr} {s t : State} (h : exec i s = .next t) :
    execAll (i :: is) s = execAll is t := by
  simp only [execAll, h]

theorem execAll_append {is js : List Instr} {s t : State} (h : execAll is s = .next t) :
    execAll (is ++ js) s = execAll js t := by
  induction is generalizing s with
  | nil => cases h; rfl
  | cons i is ih =>
    simp only [execAll] at h
    split at h
    · rename_i u hu
      rw [List.cons_append, execAll_cons hu, ih h]
    · cases h
    · cases h

/-- UPDATE of a LIVE state absorbs the bytes at the head of data-in and takes them from there (R97). -/
theorem exec_update_absorbs {s : State} {d rest : List Byte} (hr : s.faultCode = .none) (hl : s.life = .live)
    (hd : s.dataIn = d ++ rest) : ∃ t, exec (.update d.length) s = .next t ∧ Absorbed d s t ∧ t.dataIn = rest := by
  refine ⟨_, exec_update_of_live hr hl (by simp [hd]), ?_, by simp [hd]⟩
  rw [hd, List.take_left]
  exact (absorbed_absorb d _).of_dataIn _

/-- UPDATEs of a LIVE state absorb the joined chunks, whatever the split (R101). -/
theorem execAll_updatesOf {s : State} {chunks : List (List Byte)} {rest : List Byte} (hr : s.faultCode = .none)
    (hl : s.life = .live) (hd : s.dataIn = chunks.flatten ++ rest) :
    ∃ t, execAll (updatesOf chunks) s = .next t ∧ Absorbed chunks.flatten s t ∧ t.dataIn = rest := by
  induction chunks generalizing s with
  | nil => exact ⟨s, rfl, Absorbed.nil s, hd⟩
  | cons d chunks ih =>
    obtain ⟨u, hu, hsu, hin⟩ := exec_update_absorbs (d := d) (rest := chunks.flatten ++ rest) hr hl (by simpa using hd)
    obtain ⟨t, ht, hut, hrest⟩ := ih (hsu.faultCode.trans hr) (hsu.life.trans hl) hin
    exact ⟨t, (execAll_cons hu).trans ht, hsu.trans hut, hrest⟩

theorem carried_startMessage (v : Variant) (s : State) : carried (startMessage v s) = [] := rfl

/-- INIT and the UPDATEs of a message: the message is absorbed from the initial state on. -/
theorem execAll_message {s : State} (v : Variant) {chunks : List (List Byte)} {rest : List Byte}
    (hr : s.faultCode = .none) (hd : s.dataIn = chunks.flatten ++ rest) :
    ∃ t, execAll (initOf v :: updatesOf chunks) s = .next t ∧ Absorbed chunks.flatten (startMessage v s) t ∧
      t.dataIn = rest := by
  rw [execAll_cons (exec_initOf hr v)]
  exact execAll_updatesOf (s := startMessage v s) hr rfl hd

/-- INIT leaves the history, so what was called since before it is what was called since. -/
theorem blocksSince_startMessage (v : Variant) (s t : State) : blocksSince (startMessage v s) t = blocksSince s t := rfl

/-- Settles O21: INIT carries nothing (`carried_startMessage`), so the bytes that `Absorbed` speaks of are those of the message. -/
theorem absorptionIgnoresChunking : Obligations.AbsorptionIgnoresChunking := by
  unfold Obligations.AbsorptionIgnoresChunking
  intro v s chunks rest hr hd m n
  obtain ⟨t, ht, habs, hin⟩ := execAll_message v hr hd
  refine ⟨t, ht, habs.blocks, habs.remainder, ?_, habs.h, hin, habs.dataOut, habs.life, habs.faultCode.trans hr⟩
  rw [habs.count, startMessage_count, BitVec.zero_add, BitVec.toNat_ofNat]

/-! ### The digest of a message -/

/-- The padding for an index is `0x80` and the fewest zeros (R112, R113). -/
theorem padLen_sub_one (n : Nat) : padLen (n % 64) - 1 = zerosBetween n := by
  unfold padLen zerosBetween Config.padTarget Config.blockSize
  split <;> omega

theorem bitLength_ofNat (n : Nat) : bitLength (BitVec.ofNat 64 n) = BitVec.ofNat 64 (8 * n) := by
  rw [bitLength, ← BitVec.ofNat_mul, Nat.mul_comm]

theorem paddedMessage_length (m : List Byte) : (paddedMessage m).length % 64 = 0 := by
  simp only [paddedMessage, zerosBetween, List.length_append, List.length_cons, List.length_replicate, be64_length]
  omega

/-- The suffix of a state that has counted `m` is what padding adds to `m` (R110, R113). -/
theorem append_suffixBytes {m : List Byte} {s : State} (hcount : s.count = BitVec.ofNat 64 m.length) :
    m ++ suffixBytes s = paddedMessage m := by
  have hfill : fill s = m.length % 64 := by
    rw [fill, hcount, BitVec.toNat_ofNat]
    omega
  rw [suffixBytes, hfill, hcount, bitLength_ofNat, padBytes, padLen_sub_one, paddedMessage, ← List.append_assoc]

theorem messageDigest_eq (t1 : Hash → Block → Hash) (v : Variant) (m : List Byte) :
    messageDigest t1 v m =
      (digestBytes (transform t1 (initialWords v) (wholeBlocks (paddedMessage m)))).take (digestSize v) := rfl

theorem exec_finalOf_of_live {s : State} (v : Variant) (hr : s.faultCode = .none) (hl : s.life = .live) :
    exec (finalOf v) s = .next (finishMessage v s) := by
  cases v with
  | sha256 => exact exec_final256_of_live hr hl
  | sha224 => exact exec_final224_of_live hr hl

/-- A state that has absorbed `m` from INIT on has, after FINAL's suffix, absorbed the padded message. -/
theorem Absorbed.padded {m : List Byte} {v : Variant} {s t : State} (h : Absorbed m (startMessage v s) t) :
    Absorbed (paddedMessage m) (startMessage v s) (absorbSuffix t) := by
  have hcount : t.count = BitVec.ofNat 64 m.length := by rw [h.count, startMessage_count, BitVec.zero_add]
  rw [← append_suffixBytes hcount]
  exact h.trans (absorbed_absorbSuffix t)

/-- Settles O22: FINAL absorbs the rest of the padded message, emits the digest of what has been absorbed, and wipes. -/
theorem digestOfTheMessage : Obligations.DigestOfTheMessage := by
  unfold Obligations.DigestOfTheMessage
  intro v s chunks rest hr hd
  obtain ⟨t, ht, habs, hin⟩ := execAll_message v hr hd
  have hrt : t.faultCode = .none := habs.faultCode.trans hr
  have hrun : execAll (initOf v :: (updatesOf chunks ++ [finalOf v])) s = .next (finishMessage v t) := by
    rw [← List.cons_append, execAll_append ht, execAll_cons (exec_finalOf_of_live v hrt habs.life)]
    rfl
  obtain ⟨hout, -, -, -, hlife, hcode, -, -, hdata, -, -, hcalls⟩ := finishMessage_spec v t
  refine ⟨finishMessage v t, hrun, ?_, hdata.trans hin, hlife, hcode.trans hrt, ?_, paddedMessage_length _⟩
  · rw [hout, habs.dataOut, habs.padded.h, carried_startMessage, List.nil_append, messageDigest_eq, startMessage_dataOut,
      startMessage_config, startMessage_h]
  · rw [← blocksSince_startMessage v, blocksSince, hcalls]
    exact habs.padded.blocks

end Sys2Proof.Machine
end

section
/-!
SUPPORT. FINAL's padding and length suffix (42_final.md R110 to R115): the padding for every index, and the transform calls that the
suffix makes.
-/

namespace Sys2Proof.Machine

/-! ### The padding -/

theorem padLen_of_lt {index : Nat} (h : index < 56) : padLen index = 56 - index := if_pos h

theorem padLen_of_ge {index : Nat} (h : 56 ≤ index) : padLen index = 120 - index := if_neg (Nat.not_lt.2 h)

theorem byteAt_padBytes_zero (n : Nat) : byteAt (padBytes n) 0 = 0x80#8 := rfl

theorem byteAt_padBytes_of_pos (n : Nat) {k : Nat} (h : 1 ≤ k) : byteAt (padBytes n) k = 0x00#8 := by
  obtain ⟨j, rfl⟩ := Nat.exists_eq_add_of_le' h
  rw [padBytes, byteAt, List.getD_cons_succ, List.getD_eq_getElem?_getD, List.getElem?_getD_replicate_default_eq]

/-- The carried bytes and the padding stop 8 bytes before a block ends, the next block if no room was left in the first (R112). -/
theorem padding_length (s : State) :
    (carried s ++ padBytes (padLen (fill s))).length = if fill s < 56 then 56 else 120 := by
  have hfill := fill_lt s
  rw [List.length_append, carried_length, padBytes_length (padLen_pos hfill)]
  split
  · rename_i hlt
    rw [padLen_of_lt hlt]
    omega
  · rename_i hge
    rw [padLen_of_ge (Nat.le_of_not_lt hge)]
    omega

/-- After the padding 8 bytes are free in the buffer (R112). -/
theorem fill_absorb_padding (s : State) : fill (absorb (padBytes (padLen (fill s))) s) = 56 := by
  rw [(absorbed_absorb _ s).fill, padding_length]
  split <;> rfl

/-- Settles O15: one equation of `padLen` for each side of the boundary, and `fill_absorb_padding`. -/
theorem paddingLength : Obligations.PaddingLength := by
  unfold Obligations.PaddingLength
  refine ⟨fun index hlt => ?_, fun index hge hblock => ?_, fun n hn => ?_, fill_absorb_padding⟩
  · rw [padLen_of_lt hlt]
    omega
  · rw [padLen_of_ge hge]
    omega
  · exact ⟨padBytes_length hn, byteAt_padBytes_zero n, fun _ hk => byteAt_padBytes_of_pos n hk⟩

/-! ### The bit length -/

theorem bitLength_toNat (c : W64) : (bitLength c).toNat = c.toNat * 8 % 2 ^ 64 := BitVec.toNat_mul c 8#64

theorem bitLength_eq_shiftLeft (c : W64) : bitLength c = c <<< 3 := by
  apply BitVec.eq_of_toNat_eq
  rw [bitLength_toNat, BitVec.toNat_shiftLeft, Nat.shiftLeft_eq]

/-- Settles O16: `absorbSuffix` reads the index and the bit length from the state it is given. -/
theorem bitLengthIsReadBeforeThePadding : Obligations.BitLengthIsReadBeforeThePadding := by
  unfold Obligations.BitLengthIsReadBeforeThePadding
  refine ⟨fun c => ⟨bitLength_toNat c, bitLength_eq_shiftLeft c⟩, fun s => ?_⟩
  rw [absorbSuffix, bitLength_eq_shiftLeft, fill]

/-! ### The suffix's transform calls -/

/-- Of 64 bytes, the block is those bytes. -/
theorem blockAt_zero_toList {a : List Byte} (ha : a.length = 64) : (blockAt a 0).toList = a := by
  refine List.ext_getElem (by rw [Vector.length_toList, ha]) fun i hi hia => ?_
  rw [Vector.getElem_toList, blockAt_getElem _ _ (ha ▸ hia), Nat.zero_add, byteAt_eq_getElem hia]

theorem slowCalls_of_one_block {m : List Byte} (h : m.length < 128) :
    slowCalls m = [{ src := .buf, blocks := [blockAt m 0] }] := by
  have hnone : ¬ 1 ≤ (m.drop 64).length / 64 := by
    rw [List.length_drop]
    omega
  rw [slowCalls, if_neg hnone]

/-- Bytes that do not fill the buffer make no call (R92). -/
theorem absorb_calls_of_short {d : List Byte} {s : State} (h : (carried s ++ d).length < 64) :
    (absorb d s).calls = s.calls := by
  rw [absorb_calls, if_pos h, List.append_nil]

/-- Bytes that fill the buffer once make one call, from it (R94). -/
theorem absorb_calls_of_one_block {d : List Byte} {s : State} (hfull : 64 ≤ (carried s ++ d).length)
    (hone : (carried s ++ d).length < 128) :
    (absorb d s).calls = s.calls ++ [{ src := .buf, blocks := [blockAt (carried s ++ d) 0] }] := by
  rw [absorb_calls, if_neg (Nat.not_lt.2 hfull), slowCalls_of_one_block hone]

/-- With 8 bytes free in the buffer the bit length fills it exactly: one call, on the carried bytes and the bit length (R114). -/
theorem absorb_be64_calls {s : State} (h : fill s = 56) (v : W64) :
    ∃ b : Block, (absorb (be64 v) s).calls = s.calls ++ [{ src := .buf, blocks := [b] }] ∧
      b.toList = carried s ++ be64 v := by
  have hlen : (carried s ++ be64 v).length = 64 := by rw [List.length_append, carried_length, h, be64_length]
  exact ⟨_, absorb_calls_of_one_block (by omega) (by omega), blockAt_zero_toList hlen⟩

/-- With an index below 56 the padding fits in the buffer, and the bit length completes it (R115). -/
theorem absorbSuffix_calls_of_lt {s : State} (h : fill s < 56) :
    ∃ b : Block, (absorbSuffix s).calls = s.calls ++ [{ src := .buf, blocks := [b] }] ∧
      b.toList = carried s ++ 0x80#8 :: List.replicate (55 - fill s) 0x00#8 ++ be64 (bitLength s.count) := by
  have hlen := padding_length s
  rw [if_pos h] at hlen
  obtain ⟨b, hcalls, hb⟩ := absorb_be64_calls (fill_absorb_padding s) (bitLength s.count)
  refine ⟨b, ?_, ?_⟩
  · rw [absorbSuffix, hcalls, absorb_calls_of_short (by omega)]
  · rw [hb, (absorbed_absorb _ s).remainder, leftover_of_short (by omega), padLen_of_lt h, padBytes, Nat.sub_right_comm]

/-- The padding for an index of 56 or more completes the buffer and puts 56 zeros in the next block (R113). -/
theorem padBytes_padLen_of_ge {index : Nat} (h : 56 ≤ index) (hlt : index < 64) :
    padBytes (padLen index) = 0x80#8 :: List.replicate (63 - index) 0x00#8 ++ List.replicate 56 0x00#8 := by
  rw [padLen_of_ge h, padBytes, List.cons_append, List.replicate_append_replicate]
  congr 2
  omega

/-- With an index of 56 or more the padding completes the buffer, and its last 56 zeros and the bit length fill it again (R115). -/
theorem absorbSuffix_calls_of_ge {s : State} (h : 56 ≤ fill s) :
    ∃ b c : Block,
      (absorbSuffix s).calls = s.calls ++ [{ src := .buf, blocks := [b] }, { src := .buf, blocks := [c] }] ∧
      b.toList = carried s ++ 0x80#8 :: List.replicate (63 - fill s) 0x00#8 ∧
      c.toList = List.replicate 56 0x00#8 ++ be64 (bitLength s.count) := by
  have hfill := fill_lt s
  have hlen := padding_length s
  rw [if_neg (Nat.not_lt.2 h)] at hlen
  have hfirst : (carried s ++ 0x80#8 :: List.replicate (63 - fill s) 0x00#8).length = 64 := by
    rw [List.length_append, carried_length, List.length_cons, List.length_replicate]
    omega
  have hsplit : carried s ++ padBytes (padLen (fill s)) =
      (carried s ++ 0x80#8 :: List.replicate (63 - fill s) 0x00#8) ++ List.replicate 56 0x00#8 := by
    rw [padBytes_padLen_of_ge h hfill, List.append_assoc]
  obtain ⟨c, hcalls, hc⟩ := absorb_be64_calls (fill_absorb_padding s) (bitLength s.count)
  refine ⟨blockAt (carried s ++ padBytes (padLen (fill s))) 0, c, ?_, ?_, ?_⟩
  · rw [absorbSuffix, hcalls, absorb_calls_of_one_block (by omega) (by omega), List.append_assoc, List.singleton_append]
  · rw [hsplit, blockAt_append_left _ hfirst.ge, blockAt_zero_toList hfirst]
  · rw [hc, (absorbed_absorb _ s).remainder, leftover, hlen, hsplit, List.drop_left' hfirst]

/-- Nothing is carried after the suffix. -/
theorem fill_absorbSuffix (s : State) : fill (absorbSuffix s) = 0 := by
  rw [← carried_length, absorbSuffix_carried, List.length_nil]

end Sys2Proof.Machine
end

section
/-!
SUPPORT. FINAL (42_final.md R116 to R122, 60_exceptions.md R174): both variants at once, on a LIVE state and on one that is not.
-/

namespace Sys2Proof.Machine

theorem eq_finalOf_of_final {i : Instr} (h : i = .final256 ∨ i = .final224) : ∃ v, i = finalOf v := by
  rcases h with rfl | rfl
  · exact ⟨.sha256, rfl⟩
  · exact ⟨.sha224, rfl⟩

/-- The output and the wipe call nothing. -/
theorem finishMessage_calls (v : Variant) (s : State) : (finishMessage v s).calls = (absorbSuffix s).calls := by
  obtain ⟨-, -, -, -, -, -, -, -, -, -, -, hcalls⟩ := finishMessage_spec v s
  exact hcalls

/-- Settles O17: FINAL's calls are those of its suffix, on either side of the boundary. -/
theorem finalSuffixCalls : Obligations.FinalSuffixCalls := by
  unfold Obligations.FinalSuffixCalls
  intro s hr hl suffixLen
  have hsuffix : suffixLen = be64 (bitLength s.count) := by rw [bitLength_eq_shiftLeft]
  refine ⟨fill_absorbSuffix s, fun i hi => ?_⟩
  obtain ⟨v, rfl⟩ := eq_finalOf_of_final hi
  refine ⟨_, exec_finalOf_of_live v hr hl, fun hlt => ?_, fun hge => ?_⟩
  · rw [finishMessage_calls, hsuffix]
    exact absorbSuffix_calls_of_lt hlt
  · rw [finishMessage_calls, hsuffix]
    exact absorbSuffix_calls_of_ge hge

/-- The carried bytes and the suffix are whole blocks. -/
theorem suffix_length_mod (s : State) : (carried s ++ suffixBytes s).length % 64 = 0 := by
  rw [suffix_length]
  split <;> rfl

/-- FINAL of a LIVE state emits its output, wipes, and leaves the rest (R116 to R118). -/
theorem exec_finalOf_emits {s : State} {out : List Byte} (v : Variant) (hr : s.faultCode = .none) (hl : s.life = .live)
    (hout : (digestBytes (absorbSuffix s).h).take (digestSize v) = out) :
    ∃ t, exec (finalOf v) s = .next t ∧ t.dataOut = s.dataOut ++ out ∧
      t.h = Vector.replicate 8 0#32 ∧ t.count = 0#64 ∧ t.buf = Vector.replicate 64 0#8 ∧ t.life = .wiped ∧
      t.dataIn = s.dataIn ∧ t.cmdPort = s.cmdPort ∧ t.cmdIndex = s.cmdIndex ∧
      t.faultCode = .none ∧ t.faultWord = s.faultWord ∧ t.config = s.config := by
  obtain ⟨hemitted, hh, hcount, hbuf, hlife, hcode, hword, hport, hin, hindex, hconfig, -⟩ := finishMessage_spec v s
  exact ⟨_, exec_finalOf_of_live v hr hl, hout ▸ hemitted, hh, hcount, hbuf, hlife, hin, hport, hindex, hcode.trans hr,
    hword, hconfig⟩

/-- Settles O18: `exec_finalOf_emits` for each variant; the digest is 32 bytes, so FINAL.256 cuts nothing off. -/
theorem finalEmitsTheDigestAndWipes : Obligations.FinalEmitsTheDigestAndWipes := by
  unfold Obligations.FinalEmitsTheDigestAndWipes
  intro s hr hl m d
  have hm : m = carried s ++ suffixBytes s := List.append_assoc _ _ _
  have hd : digestBytes (absorbSuffix s).h = d := by
    rw [absorbSuffix_h, ← hm]
    rfl
  have hdlen : d.length = 32 := digestBytes_length _
  have h256 : (digestBytes (absorbSuffix s).h).take (digestSize .sha256) = d := by
    rw [hd]
    exact List.take_of_length_le hdlen.le
  have h224 : (digestBytes (absorbSuffix s).h).take (digestSize .sha224) = d.take 28 := congrArg (List.take 28) hd
  exact ⟨hm ▸ suffix_length_mod s, hdlen, exec_finalOf_emits .sha256 hr hl h256, exec_finalOf_emits .sha224 hr hl h224⟩

theorem commandFault_finalOf_of_not_live {s : State} (v : Variant) (h : s.life ≠ .live) :
    commandFault (finalOf v) s = .notLive := by
  cases v <;> exact if_neg h

/-- FINAL of a state that is not LIVE takes the fault NOT_LIVE (R174). -/
theorem exec_finalOf_of_not_live {s : State} (v : Variant) (hr : s.faultCode = .none) (hl : s.life ≠ .live) :
    exec (finalOf v) s = .next (raiseFault .notLive (encodeWord0 (finalOf v)) s) := by
  have hcode := commandFault_finalOf_of_not_live v hl
  rw [exec_of_commandFault hr (hcode ▸ nofun), hcode]

theorem wiped_or_uninit_of_not_live {l : Life} (h : l ≠ .live) : l = .wiped ∨ l = .uninit := by
  cases l with
  | uninit => exact .inr rfl
  | live => exact absurd rfl h
  | wiped => exact .inl rfl

/-- Settles O19: FINAL wipes a LIVE state, and of another it takes a fault, which leaves the registers and halts. -/
theorem finalWipesOrFaults : Obligations.FinalWipesOrFaults := by
  unfold Obligations.FinalWipesOrFaults
  intro s i hi hr
  obtain ⟨v, rfl⟩ := eq_finalOf_of_final hi
  by_cases hl : s.life = .live
  · obtain ⟨-, hh, hcount, hbuf, hlife, hcode, -⟩ := finishMessage_spec v s
    exact ⟨_, exec_finalOf_of_live v hr hl, fun _ => ⟨hh, hcount, hbuf, hlife⟩,
      fun hfault => absurd (hcode.trans hr) hfault⟩
  · exact ⟨_, exec_finalOf_of_not_live v hr hl, nofun,
      fun hfault => ⟨rfl, rfl, rfl, rfl, wiped_or_uninit_of_not_live hl, step_of_halted hfault⟩⟩

end Sys2Proof.Machine
end

section
/-!
SUPPORT. Two states that carry the same message (42_final.md R119, 10_state.md R24): an UPDATE and a FINAL read of `BUF` only the bytes
below the fill level, so they keep two such states alike and emit the same bytes.
-/

namespace Sys2Proof.Machine

/-! ### The carried bytes as the message -/

theorem SameMessage.fill {s s' : State} (h : SameMessage s s') : fill s = fill s' := by
  rw [Machine.fill, h.count, Machine.fill]

theorem SameMessage.carried {s s' : State} (h : SameMessage s s') : carried s = carried s' := by
  refine List.ext_getElem (by rw [carried_length, carried_length, h.fill]) fun i hi hi' => ?_
  rw [carried_length] at hi hi'
  rw [← byteAt_eq_getElem, ← byteAt_eq_getElem, byteAt_carried hi, byteAt_carried hi']
  exact h.buf ⟨i, hi.trans (fill_lt s)⟩ hi

theorem buf_eq_of_carried_eq {s s' : State} (hcount : s.count = s'.count) (hcarried : carried s = carried s') (i : Fin 64)
    (hi : i.val < fill s) : s.buf[i] = s'.buf[i] := by
  have hi' : i.val < fill s' := by rwa [fill, ← hcount]
  simp only [Fin.getElem_fin]
  rw [← byteAt_carried hi, ← byteAt_carried hi', hcarried]

/-- Pending bytes are no part of the message a state carries. -/
theorem SameMessage.with_dataIn {s s' : State} (h : SameMessage s s') (bs : List Byte) :
    SameMessage { s with dataIn := bs } { s' with dataIn := bs } :=
  ⟨h.h, h.count, h.buf, h.life, h.faultCode, h.transform⟩

/-! ### The operations keep it -/

/-- An absorption works on the carried bytes and what it is given alone. -/
theorem SameMessage.absorb {s s' : State} (h : SameMessage s s') (d : List Byte) :
    SameMessage (absorb d s) (absorb d s') := by
  have hcount : (Machine.absorb d s).count = (Machine.absorb d s').count := by rw [absorb_count, absorb_count, h.count]
  have hcarried : Machine.carried (Machine.absorb d s) = Machine.carried (Machine.absorb d s') := by
    rw [absorb_carried, absorb_carried, h.carried]
  refine ⟨?_, hcount, buf_eq_of_carried_eq hcount hcarried, ?_, ?_, ?_⟩
  · rw [absorb_h, absorb_h, h.h, h.carried, h.transform]
  · rw [absorb_life, absorb_life, h.life]
  · rw [absorb_faultCode, absorb_faultCode, h.faultCode]
  · rw [absorb_config, absorb_config, h.transform]

theorem SameMessage.absorbSuffix {s s' : State} (h : SameMessage s s') :
    SameMessage (absorbSuffix s) (absorbSuffix s') := by
  rw [Machine.absorbSuffix, Machine.absorbSuffix, h.fill, h.count]
  exact (h.absorb _).absorb _

/-- FINAL leaves the same zeros, whatever it finished. -/
theorem SameMessage.finishMessage {s s' : State} (h : SameMessage s s') (v : Variant) :
    SameMessage (finishMessage v s) (finishMessage v s') := by
  obtain ⟨-, hh, hcount, hbuf, hlife, hcode, -, -, -, -, hconfig, -⟩ := finishMessage_spec v s
  obtain ⟨-, hh', hcount', hbuf', hlife', hcode', -, -, -, -, hconfig', -⟩ := finishMessage_spec v s'
  refine ⟨hh.trans hh'.symm, hcount.trans hcount'.symm, fun i _ => ?_, hlife.trans hlife'.symm, ?_, ?_⟩
  · rw [hbuf, hbuf']
  · rw [hcode, hcode', h.faultCode]
  · rw [hconfig, hconfig', h.transform]

theorem SameMessage.raiseFault {s s' : State} (h : SameMessage s s') (code : FaultCode) (w : W32) :
    SameMessage (raiseFault code w s) (raiseFault code w s') :=
  ⟨h.h, h.count, h.buf, h.life, rfl, h.transform⟩

/-- A command's check reads `LIFE` alone. -/
theorem SameMessage.commandFault {s s' : State} (h : SameMessage s s') (i : Instr) :
    commandFault i s = commandFault i s' := by
  cases i <;> simp only [Machine.commandFault, h.life]

/-! ### Commands -/

/-- `t` and `t'` still carry the same message and have the same data-in, and the same bytes have been emitted on the way from `s` to `t`
and from `s'` to `t'`. -/
structure RunAlike (s t s' t' : State) : Prop where
  message : SameMessage t t'
  dataIn  : t.dataIn = t'.dataIn
  dataOut : ∃ out, t.dataOut = s.dataOut ++ out ∧ t'.dataOut = s'.dataOut ++ out

theorem RunAlike.silent {s t s' t' : State} (hm : SameMessage t t') (hin : t.dataIn = t'.dataIn)
    (hout : t.dataOut = s.dataOut) (hout' : t'.dataOut = s'.dataOut) : RunAlike s t s' t' :=
  ⟨hm, hin, [], by rw [hout, List.append_nil], by rw [hout', List.append_nil]⟩

theorem RunAlike.trans {s t u s' t' u' : State} (h : RunAlike s t s' t') (h' : RunAlike t u t' u') :
    RunAlike s u s' u' := by
  obtain ⟨-, -, a, ha, ha'⟩ := h
  obtain ⟨hm, hin, b, hb, hb'⟩ := h'
  exact ⟨hm, hin, a ++ b, by rw [hb, ha, List.append_assoc], by rw [hb', ha', List.append_assoc]⟩

theorem SameMessage.finishMessage_runAlike {s s' : State} (h : SameMessage s s') (hin : s.dataIn = s'.dataIn)
    (v : Variant) : RunAlike s (Machine.finishMessage v s) s' (Machine.finishMessage v s') := by
  obtain ⟨hout, -, -, -, -, -, -, -, hdata, -⟩ := finishMessage_spec v s
  obtain ⟨hout', -, -, -, -, -, -, -, hdata', -⟩ := finishMessage_spec v s'
  refine ⟨h.finishMessage v, by rw [hdata, hdata', hin], _, hout, ?_⟩
  rw [hout', h.absorbSuffix.h]

/-- An UPDATE or a FINAL does on one state as on the other. -/
theorem SameMessage.exec {s s' t : State} (h : SameMessage s s') (hin : s.dataIn = s'.dataIn) {i : Instr}
    (hi : goesOn i = true) (he : exec i s = .next t) : ∃ t', exec i s' = .next t' ∧ RunAlike s t s' t' := by
  obtain ⟨hr, hc⟩ := exec_completes he
  have hr' : s'.faultCode = .none := h.faultCode.symm.trans hr
  cases hc with
  | faulted i hfault =>
    rw [h.commandFault i] at hfault ⊢
    exact ⟨_, exec_of_commandFault hr' hfault, .silent (h.raiseFault _ _) hin rfl rfl⟩
  | started v => cases v <;> cases hi
  | absorbed len hlive hdata =>
    rw [h.life] at hlive
    rw [hin] at hdata ⊢
    exact ⟨_, exec_update_of_live hr' hlive hdata, .silent ((h.with_dataIn _).absorb _)
      (by rw [absorb_dataIn, absorb_dataIn]) (absorb_dataOut _ _) (absorb_dataOut _ _)⟩
  | finished v hlive =>
    exact ⟨_, exec_finalOf_of_live v hr' (h.life.symm.trans hlive), h.finishMessage_runAlike hin v⟩
  | exported _ => cases hi
  | imported _ => cases hi

theorem execAll_cons_next {i : Instr} {is : List Instr} {s t : State} (h : execAll (i :: is) s = .next t) :
    ∃ u, exec i s = .next u ∧ execAll is u = .next t := by
  simp only [execAll] at h
  split at h
  · rename_i u hu
    exact ⟨u, hu, h⟩
  · cases h
  · cases h

/-- So does a sequence of them. -/
theorem SameMessage.execAll {s s' t : State} (h : SameMessage s s') (hin : s.dataIn = s'.dataIn) {is : List Instr}
    (his : is.all goesOn = true) (he : execAll is s = .next t) :
    ∃ t', execAll is s' = .next t' ∧ RunAlike s t s' t' := by
  induction is generalizing s s' with
  | nil =>
    cases he
    exact ⟨s', rfl, .silent h hin rfl rfl⟩
  | cons i is ih =>
    rw [List.all_cons, Bool.and_eq_true] at his
    obtain ⟨hi, his⟩ := his
    obtain ⟨u, hu, ht⟩ := execAll_cons_next he
    obtain ⟨u', hu', hsu⟩ := h.exec hin hi hu
    obtain ⟨t', ht', hut⟩ := ih hsu.message hsu.dataIn his ht
    exact ⟨t', (execAll_cons hu').trans ht', hsu.trans hut⟩

/-- Settles O23: by induction on the commands (`SameMessage.execAll`), each of which keeps the two states alike. -/
theorem leftoverBytesNeverReachADigest : Obligations.LeftoverBytesNeverReachADigest := by
  unfold Obligations.LeftoverBytesNeverReachADigest
  intro is s s' t h hin his he
  obtain ⟨t', he', hm, hin', out, hout, hout'⟩ := h.execAll hin his he
  exact ⟨t', out, he', hm, hin', hout, hout'⟩

end Sys2Proof.Machine
end

section
/-!
SUPPORT. EXPORT and IMPORT (43_export_import.md): the image that EXPORT emits, what IMPORT makes of it, and that the message goes on
where it was suspended.
-/

namespace Sys2Proof.Machine

/-! ### EXPORT -/

/-- The bytes EXPORT emits (R130, R131). -/
def exportImage (s : State) : List Byte := snap s.config.snapEndian s.h s.count (observedBuf s)

theorem exportSnapshot_eq (s : State) :
    exportSnapshot s = { s with dataOut := s.dataOut ++ exportImage s, draws := s.draws + drawsObserved s } := rfl

theorem exportImage_length (s : State) : (exportImage s).length = 104 := snap_length _ _ _ _

/-- Up to the fill level the image is the snapshot of the registers (R131). -/
theorem exportImage_take (s : State) :
    (exportImage s).take (40 + fill s) = (snap s.config.snapEndian s.h s.count s.buf).take (40 + fill s) := by
  refine ext_byteAt (by simp only [List.length_take, exportImage_length, snap_length]) fun k hk => ?_
  have hk' : k < 40 + fill s := (List.length_take_le _ _).trans_lt' hk
  rw [byteAt_take hk', byteAt_take hk', exportImage]
  exact byteAt_snap_congr (fill_lt s).le (fun j hj => observedBuf_getElem_of_lt_fill hj) hk'

theorem exportImage_of_not_live {s : State} (h : s.life ≠ .live) :
    exportImage s = snap s.config.snapEndian s.h s.count s.buf := by
  rw [exportImage, observedBuf_of_not_live h]

/-- Settles O26: the leftover bytes are all that `exportImage` can show differently, and those of a LIVE state only. -/
theorem exportEmitsTheSnapshot : Obligations.ExportEmitsTheSnapshot := by
  unfold Obligations.ExportEmitsTheSnapshot
  intro s hr hl
  refine ⟨exportImage s, s.draws + drawsObserved s, ?_, exportImage_length s, exportImage_take s, fun hw => ?_⟩
  · rw [exec_exportSnap_of_initialized hr hl, exportSnapshot_eq]
  · exact exportImage_of_not_live (by simp [hw])

/-! ### IMPORT -/

/-- Settles O28: a wrong size is the command's fault, which is checked before any data-in byte is taken. -/
theorem importChecksTheSize : Obligations.ImportChecksTheSize := by
  unfold Obligations.ImportChecksTheSize
  intro s len hr hlen
  have hfault : commandFault (.importSnap len) s = .snapshotSize := if_neg hlen
  rw [exec_of_commandFault hr (by simp [hfault]), hfault, encodeWord0_importSnap, raiseFault]

/-- Settles O29: IMPORT reads the fields of its bytes, and the snapshot of those fields is the bytes again (R49). -/
theorem importReplacesTheHashState : Obligations.ImportReplacesTheHashState := by
  unfold Obligations.ImportReplacesTheHashState
  intro s hr hdata
  obtain ⟨-, hsnap, -⟩ := snapAndUnsnapAreInverse
  refine ⟨_, _, _, exec_importSnap_of_available hr hdata, hsnap _ _ ?_⟩
  rw [List.length_take, Nat.min_eq_left hdata]

theorem exec_importSnap_of_append {s : State} {img rest : List Byte} (hr : s.faultCode = .none) (himg : img.length = 104)
    (hin : s.dataIn = img ++ rest) :
    exec (.importSnap 104) s = .next (loadSnapshot img { s with dataIn := rest }) := by
  have hdata : 104 ≤ s.dataIn.length := by rw [hin, List.length_append]; omega
  rw [exec_importSnap_of_available hr hdata, hin, List.take_left' himg, List.drop_left' himg]

/-! ### The round trip -/

/-- The importing engine carries the message of the exporting one: only leftover bytes of `BUF` may differ. -/
theorem sameMessage_import_export {a b : State} (hlive : a.life = .live) (hcode : a.faultCode = b.faultCode)
    (hconfig : b.config = a.config) : SameMessage a (loadSnapshot (exportImage a) b) where
  h := by rw [loadSnapshot_h, hconfig, exportImage, unsnapH_snap]
  count := by rw [loadSnapshot_count, hconfig, exportImage, unsnapCount_snap]
  buf i hi := by
    rw [loadSnapshot_buf, exportImage, unsnapBuf_snap]
    exact (observedBuf_getElem_of_lt_fill hi).symm
  life := by rw [loadSnapshot_life, hlive]
  faultCode := by rw [loadSnapshot_faultCode, hcode]
  transform := by rw [loadSnapshot_config, hconfig]

/-- An engine given the image of a LIVE engine and its data-in imports it, and is then where the exporting one is. -/
theorem import_resumes {a b : State} (hlive : a.life = .live) (hcode : a.faultCode = .none) (hr : b.faultCode = .none)
    (hconfig : b.config = a.config) (hin : b.dataIn = exportImage a ++ a.dataIn) :
    ∃ b', exec (.importSnap 104) b = .next b' ∧ SameMessage a b' ∧ a.dataIn = b'.dataIn :=
  ⟨_, exec_importSnap_of_append hr (exportImage_length a) hin,
    sameMessage_import_export hlive (hcode.trans hr.symm) hconfig, by rw [loadSnapshot_dataIn]⟩

/-- Settles O30: after the import `b` carries `a`'s message and has its data-in, and two such engines run alike
(`SameMessage.execAll`). -/
theorem suspendAndResume : Obligations.SuspendAndResume := by
  unfold Obligations.SuspendAndResume
  intro a b ha hlive hb hconfig
  refine ⟨exportSnapshot a, exportImage a, exec_exportSnap_of_initialized ha (by simp [hlive]), exportSnapshot_dataOut a,
    fun hin => ?_⟩
  obtain ⟨b', himport, hm, hdata⟩ := import_resumes hlive ha hb hconfig hin
  refine ⟨b', himport, hm.h.symm, hm.count.symm, hm.carried.symm, hm.life.symm.trans hlive, fun is t his he => ?_⟩
  obtain ⟨t', he', -, -, out, hout, hout'⟩ := hm.execAll hdata his he
  exact ⟨t', out, he', hout, hout'⟩

end Sys2Proof.Machine
end

section
/-!
SUPPORT. The block transform (44_transform.md): the fold of `T1`, the message schedule of the reference transform, and `ROTR`.
-/

namespace Sys2Proof.Machine

/-- Settles O46: the blocks of `q + 1` are those of `q` and one more, and the fold runs over them in order. -/
theorem transformIsTheFoldOfT1 : Obligations.TransformIsTheFoldOfT1 := by
  unfold Obligations.TransformIsTheFoldOfT1
  intro t1 h d q
  refine ⟨by rw [blocksOf_zero, transform_nil], ?_⟩
  rw [blocksOf_succ, transform_append, transform_cons, transform_nil, blockAt]

/-! ### The words of a block -/

theorem bytesFrom_four {d : List Byte} {i : Nat} (h : i + 4 ≤ d.length) :
    bytesFrom d i 4 = [d[i], d[i + 1], d[i + 2], d[i + 3]] := by
  rw [bytesFrom, List.drop_eq_getElem_cons (by omega), List.drop_eq_getElem_cons (by omega),
    List.drop_eq_getElem_cons (by omega), List.drop_eq_getElem_cons (by omega)]
  rfl

/-- Appending a byte to a number is a shift of its word. -/
theorem ofNat_mul_256_add_byte (acc : Nat) (b : Byte) :
    BitVec.ofNat 32 (acc * 256 + b.toNat) = (BitVec.ofNat 32 acc <<< 8) ||| b.setWidth 32 := by
  have hor : acc * 256 + b.toNat = acc <<< 8 ||| b.toNat := by
    rw [← Nat.shiftLeft_add_eq_or_of_lt b.isLt, Nat.shiftLeft_eq]
  have hshift : BitVec.ofNat 32 (acc <<< 8) = BitVec.ofNat 32 acc <<< 8 :=
    BitVec.eq_of_toNat_eq (by simp [Nat.shiftLeft_eq])
  rw [hor, BitVec.ofNat_or, hshift, BitVec.ofNat_toNat]

/-- Four bytes as a word, the first the most significant. -/
theorem ofNat_natOfBytesBE_four (b₀ b₁ b₂ b₃ : Byte) :
    BitVec.ofNat 32 (natOfBytesBE [b₀, b₁, b₂, b₃] 0) =
      (b₀.setWidth 32 <<< 24) ||| (b₁.setWidth 32 <<< 16) ||| (b₂.setWidth 32 <<< 8) ||| b₃.setWidth 32 := by
  simp only [natOfBytesBE, ofNat_mul_256_add_byte, BitVec.shiftLeft_or_distrib, ← BitVec.shiftLeft_add]
  simp

/-- `W[t]` of a block is its bytes `4t .. 4t+3`, the first the most significant (R157). -/
theorem blockWord_eq_shift_or (blk : Block) (t : Fin 16) :
    blockWord blk t.val =
      (blk[4 * t.val].setWidth 32 <<< 24) ||| (blk[4 * t.val + 1].setWidth 32 <<< 16) |||
      (blk[4 * t.val + 2].setWidth 32 <<< 8) ||| blk[4 * t.val + 3].setWidth 32 := by
  have hlen : 4 * t.val + 4 ≤ blk.toList.length := by simp; omega
  rw [blockWord, bytesFrom_four hlen, ofNat_natOfBytesBE_four]
  simp only [Vector.getElem_toList]

/-! ### The message schedule -/

/-- The words `W[0 .. 15+n]` of a block, the latest first. -/
def latestWords (blk : Block) (n : Nat) : List W32 :=
  extendSchedule n ((List.range 16).map (blockWord blk)).reverse

theorem extendSchedule_succ (n : Nat) (ws : List W32) :
    extendSchedule (n + 1) ws = nextScheduleWord (extendSchedule n ws) :: extendSchedule n ws := by
  induction n generalizing ws with
  | zero => rfl
  | succ n ih => rw [extendSchedule, ih, extendSchedule]

theorem latestWords_succ (blk : Block) (n : Nat) :
    latestWords blk (n + 1) = nextScheduleWord (latestWords blk n) :: latestWords blk n :=
  extendSchedule_succ n _

theorem latestWords_length (blk : Block) (n : Nat) : (latestWords blk n).length = n + 16 := by
  induction n with
  | zero => simp [latestWords, extendSchedule]
  | succ n ih => rw [latestWords_succ, List.length_cons, ih, Nat.add_right_comm]

/-- More words do not move the earlier ones. -/
theorem latestWords_getD_add (blk : Block) (n k i : Nat) :
    (latestWords blk (n + k)).getD (k + i) 0#32 = (latestWords blk n).getD i 0#32 := by
  induction k with
  | zero => rw [Nat.add_zero, Nat.zero_add]
  | succ k ih => rw [← Nat.add_assoc n, latestWords_succ, Nat.add_right_comm k 1 i, List.getD_cons_succ, ih]

theorem schedule_eq_reverse (blk : Block) : schedule blk = (latestWords blk 48).reverse := rfl

theorem schedule_length (blk : Block) : (schedule blk).length = 64 := by
  rw [schedule_eq_reverse, List.length_reverse, latestWords_length]

/-- `W[t]` stands `15 + n - t` words before the latest of `W[0 .. 15+n]`. -/
theorem schedule_getD (blk : Block) {n t : Nat} (hn : n ≤ 48) (ht : t ≤ n + 15) :
    (schedule blk).getD t 0#32 = (latestWords blk n).getD (n + 15 - t) 0#32 := by
  obtain ⟨k, hk⟩ := Nat.exists_eq_add_of_le hn
  have hpos : (latestWords blk 48).length - 1 - t = k + (n + 15 - t) := by rw [latestWords_length]; omega
  rw [schedule_eq_reverse, List.getD_reverse t (by rw [latestWords_length]; omega), hpos, hk, latestWords_getD_add]

/-- The first 16 words are the block's (R157). -/
theorem schedule_getD_of_lt_16 (blk : Block) (t : Fin 16) : (schedule blk).getD t.val 0#32 = blockWord blk t.val := by
  have hpos : ((List.range 16).map (blockWord blk)).length - 1 - (0 + 15 - t.val) = t.val := by simp; omega
  rw [schedule_getD blk (Nat.zero_le 48) (by omega), latestWords, extendSchedule, List.getD_reverse _ (by simp; omega), hpos]
  simp

/-- Each later word is made from the 16 before it (R159). -/
theorem schedule_getD_add_16 (blk : Block) {n : Nat} (h : n < 48) :
    (schedule blk).getD (n + 16) 0#32 = nextScheduleWord (latestWords blk n) := by
  rw [schedule_getD blk (n := n + 1) h (by omega), latestWords_succ]
  simp

/-- Settles O47: each word is read off the list it was made from, the latest word first (`schedule_getD`). -/
theorem scheduleRecurrence : Obligations.ScheduleRecurrence := by
  unfold Obligations.ScheduleRecurrence
  intro blk
  refine ⟨schedule_length blk, fun t => ?_, fun t h16 h64 => ?_⟩
  · rw [schedule_getD_of_lt_16, blockWord_eq_shift_or]
  · obtain ⟨n, rfl⟩ := Nat.exists_eq_add_of_le' h16
    have hearlier : ∀ k, 1 ≤ k → k ≤ 16 →
        (schedule blk).getD (n + 16 - k) 0#32 = (latestWords blk n).getD (k - 1) 0#32 := fun k h1 hk => by
      rw [schedule_getD blk (n := n) (by omega) (by omega)]
      congr 1
      omega
    rw [schedule_getD_add_16 blk (by omega), nextScheduleWord, hearlier 2, hearlier 7, hearlier 15, hearlier 16] <;> omega

/-! ### The reference transform's vectors -/

theorem rotr_eq_rotateRight (x : W32) {n : Nat} (h : n < 32) : rotr x n = x.rotateRight n := by
  rw [BitVec.rotateRight_eq_rotateRightAux_of_lt h, BitVec.rotateRightAux, rotr]

/-- V21: the zero block. -/
theorem t1Ref_zeroBlock : t1Ref iv256 (Vector.replicate 64 0x00#8) =
    #v[0xda5698be#32, 0x17b9b469#32, 0x62335799#32, 0x779fbeca#32,
       0x8ce5d491#32, 0xc0d26243#32, 0xbafef9ea#32, 0x1837a9d8#32] := by
  decide +kernel

/-- V21: the padded block of the empty message. -/
theorem t1Ref_emptyMessageBlock : t1Ref iv256 (blockAt [0x80#8] 0) =
    #v[0xe3b0c442#32, 0x98fc1c14#32, 0x9afbf4c8#32, 0x996fb924#32,
       0x27ae41e4#32, 0x649b934c#32, 0xa495991b#32, 0x7852b855#32] := by
  decide +kernel

/-- Settles O48: ROTR is the library's rotation below 32, and the two values of V21 are computed. -/
theorem referenceTransformVectors : Obligations.ReferenceTransformVectors := by
  unfold Obligations.ReferenceTransformVectors
  exact ⟨fun x _ _ h => rotr_eq_rotateRight x h, t1Ref_zeroBlock, t1Ref_emptyMessageBlock⟩

end Sys2Proof.Machine
end

section
/-!
SUPPORT. Faults (60_exceptions.md R170 to R179): when a command has a next state, what a step that takes a fault leaves, and the
illegal words and checks that raise one.
-/

namespace Sys2Proof.Machine

/-! ### A command has a next state -/

/-- A command whose check passes completes once the data-in bytes it takes are there (R43). -/
theorem exec_next_of_no_commandFault {i : Instr} {s : State} (hr : s.faultCode = .none) (hf : commandFault i s = .none)
    (hdata : payloadSize i ≤ s.dataIn.length) : ∃ t, exec i s = .next t := by
  cases i with
  | init256 => exact ⟨_, exec_initOf hr .sha256⟩
  | init224 => exact ⟨_, exec_initOf hr .sha224⟩
  | update len =>
    have hl : s.life = .live := by simpa [commandFault] using hf
    exact ⟨_, exec_update_of_live hr hl hdata⟩
  | final256 =>
    have hl : s.life = .live := by simpa [commandFault] using hf
    exact ⟨_, exec_final256_of_live hr hl⟩
  | final224 =>
    have hl : s.life = .live := by simpa [commandFault] using hf
    exact ⟨_, exec_final224_of_live hr hl⟩
  | exportSnap =>
    have hl : s.life ≠ .uninit := by simpa [commandFault] using hf
    exact ⟨_, exec_exportSnap_of_initialized hr hl⟩
  | importSnap len =>
    obtain rfl : len = 104 := by simpa [commandFault] using hf
    exact ⟨_, exec_importSnap_of_available hr hdata⟩

/-- Settles O8: a command takes its fault, or its check passes and its bytes are there. -/
theorem everyCommandHasANextState : Obligations.EveryCommandHasANextState := by
  unfold Obligations.EveryCommandHasANextState
  intro i s hr hdata
  by_cases hf : commandFault i s = .none
  · exact exec_next_of_no_commandFault hr hf hdata
  · exact ⟨_, exec_of_commandFault hr hf⟩

/-! ### Illegal words -/

/-- Settles O6: each of the clauses makes word 0 illegal for the decoder, and the step takes it alone. -/
theorem illegalWordFaults : Obligations.IllegalWordFaults := by
  unfold Obligations.IllegalWordFaults
  intro s w0 rest hr hport hclause
  obtain ⟨why, hw⟩ := (illegalWordsAreTheOthers w0).1.2 hclause
  rw [step_of_illegal hr hport hw, takeIllegal, takeWords, raiseFault, hport, List.drop_one, List.tail_cons]

theorem commandLength_of_illegal {w0 : W32} {why : Illegal} (h : decodeHead w0 = .error why) : commandLength w0 = 1 := by
  simp only [commandLength, h]

/-! ### A step that takes a fault -/

/-- No command's check reads the port. -/
theorem commandFault_takeWords (i : Instr) (n : Nat) (s : State) : commandFault i (takeWords n s) = commandFault i s := by
  cases i <;> rfl

/-- A step on a command whose check fails takes the command's words, and no payload byte, and records the fault (R172). -/
theorem step_of_commandFault {s : State} {i : Instr} {rest : List W32} {code : FaultCode} (hr : s.faultCode = .none)
    (hd : decode s.cmdPort = .ok (i, rest)) (hcode : commandFault i s = code) (hne : code ≠ .none) :
    step s = .next { s with cmdPort := rest, cmdIndex := s.cmdIndex + (encode i).length,
                            faultCode := code, faultWord := encodeWord0 i } := by
  obtain ⟨hrest, -⟩ := decode_words hd
  have hcode' : commandFault i (takeWords (encode i).length s) = code := by rw [commandFault_takeWords, hcode]
  rw [step_of_command hr hd, exec_of_commandFault (s := takeWords _ s) hr (hcode' ▸ hne), hcode', hrest]
  rfl

theorem wordCount (i : Instr) : Laws.WordCount.Statement i := by
  cases i with
  | init256 => exact Laws.WordCount.init256
  | init224 => exact Laws.WordCount.init224
  | update len => exact Laws.WordCount.update len
  | final256 => exact Laws.WordCount.final256
  | final224 => exact Laws.WordCount.final224
  | exportSnap => exact Laws.WordCount.exportSnap
  | importSnap len => exact Laws.WordCount.importSnap len

/-- The word 0 that a decoded command came from is its own, and announces the command's words (R60, R62). -/
theorem head_of_decode {ws rest : List W32} {i : Instr} (h : decode ws = .ok (i, rest)) :
    ws.head? = some (encodeWord0 i) ∧ (encode i).length = commandLength (encodeWord0 i) := by
  obtain ⟨-, hws⟩ := decodeOnlyEncodings ws rest i h
  obtain ⟨more, hwords, hcount⟩ := wordCount i
  rw [hws, hwords, hcount]
  exact ⟨rfl, rfl⟩

/-- A run that stops with a fault recorded has not ended well (R204). -/
theorem endsWell_of_halted {r : Run} (h : r.state.faultCode ≠ .none) (p : Assembled) : endsWell p r = false := by
  simp [endsWell, h]

/-- What a step that takes a fault leaves: the fault registers written, the command's own words taken, and nothing else (R172). -/
theorem step_faulted {s t : State} (h : step s = .next t) (hfault : t.faultCode ≠ .none) :
    ∃ w0, s.cmdPort.head? = some w0 ∧ t = raiseFault t.faultCode w0 (takeWords (commandLength w0) s) := by
  obtain ⟨-, ⟨w0, rest, why, hport, hw, rfl⟩ | ⟨i, rest, hd, he⟩⟩ := step_next h
  · exact ⟨w0, by rw [hport, List.head?_cons], by rw [commandLength_of_illegal hw]; rfl⟩
  · obtain ⟨hr, hc⟩ := exec_completes he
    obtain ⟨hhead, hlen⟩ := head_of_decode hd
    rcases hc.fault_registers with ⟨-, rfl⟩ | ⟨hsame, -⟩
    · exact ⟨encodeWord0 i, hhead, by rw [hlen, raiseFault_faultCode]⟩
    · exact absurd (hsame.trans hr) hfault

/-- Settles O33: the frame by `step_faulted`; a halted engine has no step, and no run ends well there. -/
theorem faultEntryChangesNothingElse : Obligations.FaultEntryChangesNothingElse := by
  unfold Obligations.FaultEntryChangesNothingElse
  intro s t h hfault
  obtain ⟨w0, hhead, ht⟩ := step_faulted h hfault
  refine ⟨w0, commandLength w0, hhead, rfl, ht, fun u hu => ?_, fun p r hrun => endsWell_of_halted (hrun ▸ hfault) p⟩
  cases (step_of_halted hfault).symm.trans hu

/-! ### The faults of the lifecycle -/

/-- Settles O32: the check of each of the three commands fails when LIFE is not LIVE. -/
theorem notLiveFaults : Obligations.NotLiveFaults := by
  unfold Obligations.NotLiveFaults
  intro s rest hr hlife
  have hl : s.life ≠ .live := by rcases hlife with h | h <;> simp [h]
  refine ⟨fun w1 hport => ?_, fun hport => ?_, fun hport => ?_⟩
  · exact step_of_commandFault (i := .update w1.toNat) hr (hport ▸ decode_update_words w1 rest) (if_neg hl) nofun
  · exact step_of_commandFault (i := .final256) hr (hport ▸ decode_encode (i := .final256) rfl rest) (if_neg hl) nofun
  · exact step_of_commandFault (i := .final224) hr (hport ▸ decode_encode (i := .final224) rfl rest) (if_neg hl) nofun

/-- The snapshot of the wiped HashState is all zero in both byte orders (R48, R175). -/
theorem snap_zero (e : Endian) :
    snap e (Vector.replicate 8 0#32) 0#64 (Vector.replicate 64 0#8) = List.replicate 104 0x00#8 := by
  cases e <;> decide

/-- Settles O27: the check fails while UNINIT; a WIPED state shows its registers, which the invariant keeps at zero. -/
theorem exportOfAnUninitializedStateFaults : Obligations.ExportOfAnUninitializedStateFaults := by
  unfold Obligations.ExportOfAnUninitializedStateFaults
  refine ⟨fun s hr hl => ?_, fun s hr hw hi => ?_⟩
  · have hfault : commandFault .exportSnap s = .uninitRead := if_pos hl
    rw [exec_of_commandFault hr (hfault ▸ nofun), hfault, encodeWord0_exportSnap, raiseFault]
  · obtain ⟨hh, hcount, hbuf⟩ := hi.wiped_zero hw
    have hzero : exportImage s = List.replicate 104 0x00#8 := by
      rw [exportImage_of_not_live (by simp [hw]), hh, hcount, hbuf, snap_zero]
    refine ⟨exportSnapshot s, exec_exportSnap_of_initialized hr (by simp [hw]), (exportSnapshot_faultCode s).trans hr, ?_⟩
    rw [exportSnapshot_eq, hzero]

end Sys2Proof.Machine
end

section
/-!
SUPPORT. Runs (70_reset_and_hazards.md R204): what every run accounts for, and when one has ended well.
-/

namespace Sys2Proof.Machine

/-! ### What a run accounts for -/

/-- Each word issued and each byte supplied has been taken or is pending, and each byte emitted has been handed over or is
pending. -/
structure Run.Accounts (r : Run) : Prop where
  words   : r.issued = r.wordsTaken ++ r.state.cmdPort
  bytes   : r.supplied = r.bytesTaken ++ r.state.dataIn
  emitted : r.emitted = r.handed ++ r.state.dataOut

theorem Run.Accounts.start (s : State) : (Run.start s).Accounts := ⟨rfl, rfl, rfl⟩

theorem after_cmdPort (act : HostAct) (s : State) : (act.after s).cmdPort = s.cmdPort ++ act.words := by
  cases act with
  | issueWords ws => rfl
  | supplyBytes _ | takeBytes _ | readStatus | readFaultWord => exact (List.append_nil _).symm

theorem after_dataIn (act : HostAct) (s : State) : (act.after s).dataIn = s.dataIn ++ act.supplies := by
  cases act with
  | supplyBytes bs => rfl
  | issueWords _ | takeBytes _ | readStatus | readFaultWord => exact (List.append_nil _).symm

/-- What an act hands to the host is what it takes from the front of data-out (R44). -/
theorem handed_append_after_dataOut (act : HostAct) (s : State) :
    (act.run s).1.handed ++ (act.after s).dataOut = s.dataOut := by
  cases act with
  | takeBytes n => exact List.take_append_drop n s.dataOut
  | issueWords _ | supplyBytes _ | readStatus | readFaultWord => rfl

theorem Run.Accounts.acted {r : Run} (h : r.Accounts) (act : HostAct) : (r.acted act).Accounts where
  words := by simp only [Run.acted, after_cmdPort, h.words, List.append_assoc]
  bytes := by simp only [Run.acted, after_dataIn, h.bytes, List.append_assoc]
  emitted := by simp only [Run.acted, List.append_assoc, handed_append_after_dataOut, h.emitted]

theorem Run.Accounts.stepped {r : Run} (h : r.Accounts) {t : State} (hs : step r.state = .next t) :
    (r.stepped t).Accounts := by
  obtain ⟨⟨words, hport, -⟩, ⟨taken, hin⟩, emitted, hout⟩ := step_streams hs
  refine ⟨?_, ?_, ?_⟩
  · simp only [Run.stepped, h.words, goneFrom_of_eq hport, List.append_assoc, ← hport]
  · simp only [Run.stepped, h.bytes, goneFrom_of_eq hin, List.append_assoc, ← hin]
  · simp only [Run.stepped, h.emitted, hout, List.drop_left, List.append_assoc]

theorem Run.Accounts.events {es : List RunEvent} {r r' : Run} (h : r.Accounts) (he : Run.events es r = .next r') :
    r'.Accounts := by
  refine events_induction (P := Run.Accounts) (fun e q q' hq hev => ?_) es r r' h he
  obtain ⟨act, -, rfl⟩ | ⟨-, t, ht, rfl⟩ := event_next hev
  · exact hq.acted act
  · exact hq.stepped ht

/-! ### The end of a run -/

theorem endsWell_iff (p : Assembled) (r : Run) :
    endsWell p r = true ↔
      r.issued = p.words ∧ r.supplied <+: p.dataIn ∧ r.wordsTaken = p.words ∧ r.bytesTaken = r.supplied ∧
        r.state.faultCode = .none ∧ holding r.state = false := by
  simp [endsWell, Run.isOf, and_assoc]

/-- An engine with no command word pending waits: it does not hold (R43, R53). -/
theorem holding_of_noWord {s : State} (hr : s.faultCode = .none) (hp : s.cmdPort = []) : holding s = false := by
  rw [holding, step_of_noWord hr hp]

/-- In a run that accounts for its words and bytes, all are taken exactly if none is pending. -/
theorem Run.Accounts.endsWell_iff {r : Run} (h : r.Accounts) (p : Assembled) :
    endsWell p r = true ↔
      r.issued = p.words ∧ r.supplied <+: p.dataIn ∧ r.state.cmdPort = [] ∧ r.state.dataIn = [] ∧
        r.state.faultCode = .none := by
  have hwords : r.wordsTaken = r.issued ↔ r.state.cmdPort = [] := by rw [h.words, List.self_eq_append_right]
  have hbytes : r.bytesTaken = r.supplied ↔ r.state.dataIn = [] := by rw [h.bytes, List.self_eq_append_right]
  rw [Machine.endsWell_iff, hbytes]
  constructor
  · rintro ⟨hissued, hsupplied, htaken, hin, hr, -⟩
    exact ⟨hissued, hsupplied, hwords.1 (htaken.trans hissued.symm), hin, hr⟩
  · rintro ⟨hissued, hsupplied, hport, hin, hr⟩
    exact ⟨hissued, hsupplied, (hwords.2 hport).trans hissued, hin, hr, holding_of_noWord hr hport⟩

/-- Settles O50: the accounts hold where a run begins, and every step and every act keeps them. -/
theorem runsAccountForEveryByte : Obligations.RunsAccountForEveryByte := by
  unfold Obligations.RunsAccountForEveryByte
  intro s es r h
  have hacc := (Run.Accounts.start s).events h
  exact ⟨hacc.words, hacc.bytes, hacc.emitted, hacc.endsWell_iff⟩

end Sys2Proof.Machine
end

section
/-!
SUPPORT. The run of a program (70_reset_and_hazards.md R204): the steps of the engine follow the meanings of the commands, and payloads
of the sizes they take are used up.
-/

namespace Sys2Proof.Machine

/-! ### The steps of a program -/

theorem programOf_cons_words (c : Instr × List Byte) (p : List (Instr × List Byte)) :
    (programOf (c :: p)).words = encode c.1 ++ (programOf p).words := rfl

theorem programOf_cons_dataIn (c : Instr × List Byte) (p : List (Instr × List Byte)) :
    (programOf (c :: p)).dataIn = c.2 ++ (programOf p).dataIn := rfl

/-- With a command's words at the head of the port, the step is the command's meaning, and takes those words (R54). -/
theorem step_setPort {i : Instr} {s u : State} (hi : i.wellFormed = true) (h : exec i s = .next u) (rest : List W32)
    (n : Nat) : step (setPort (encode i ++ rest) n s) = .next (setPort rest (n + (encode i).length) u) := by
  obtain ⟨hr, -⟩ := exec_completes h
  have htaken : takeWords (encode i).length (setPort (encode i ++ rest) n s) = setPort rest (n + (encode i).length) s := by
    simp [takeWords, setPort]
  rw [step_of_command (s := setPort _ n s) hr (decode_encode hi rest), htaken, exec_setPort _ _ h]

/-- What the host has put into a run and got out of it. -/
def Run.hostSide (r : Run) : List W32 × List Byte × List Byte := (r.issued, r.supplied, r.handed)

theorem stepped_hostSide (r : Run) (t : State) : (r.stepped t).hostSide = r.hostSide := rfl

/-- Where the meanings of a program's commands end in `t`, so do as many steps of the engine that has the program's words pending. -/
theorem events_program {p : List (Instr × List Byte)} (hp : ∀ c ∈ p, c.1.wellFormed = true) {s t : State}
    (he : execAll (p.map (·.1)) s = .next t) {n : Nat} {r : Run} (hstate : r.state = setPort (programOf p).words n s) :
    ∃ r', Run.events (List.replicate p.length .engineStep) r = .next r' ∧
      r'.state = setPort [] (n + (programOf p).words.length) t ∧ r'.hostSide = r.hostSide := by
  induction p generalizing s n r with
  | nil =>
    cases he
    exact ⟨r, rfl, hstate, rfl⟩
  | cons c p ih =>
    obtain ⟨u, hu, hrest⟩ := execAll_cons_next he
    obtain ⟨hc, hp⟩ := List.forall_mem_cons.1 hp
    have hstep := hstate ▸ step_setPort hc hu (programOf p).words n
    obtain ⟨r', hev, hend, hside⟩ :=
      ih hp hrest (r := r.stepped (setPort (programOf p).words (n + (encode c.1).length) u)) rfl
    refine ⟨r', ?_, ?_, hside.trans (stepped_hostSide r _)⟩
    · rw [List.length_cons, List.replicate_succ, events_engineStep hstep, hev]
    · rw [hend, programOf_cons_words, List.length_append, Nat.add_assoc]

/-! ### The payloads of a program -/

/-- Commands leave an engine that is not halted only if they were given one, since a halted one takes none (R172). -/
theorem running_of_execAll {is : List Instr} {s t : State} (h : execAll is s = .next t) (hok : t.faultCode = .none) :
    s.faultCode = .none := by
  cases is with
  | nil => cases h; exact hok
  | cons i is =>
    obtain ⟨u, hu, -⟩ := execAll_cons_next h
    exact (exec_completes hu).1

/-- Commands that come with exactly the bytes they take leave those that follow (R44). -/
theorem dataIn_of_dutiful {p : List (Instr × List Byte)} (hp : ∀ c ∈ p, dutiful c.1 c.2 = true) {s t : State}
    (he : execAll (p.map (·.1)) s = .next t) (hok : t.faultCode = .none) {rest : List Byte}
    (hin : s.dataIn = (programOf p).dataIn ++ rest) : t.dataIn = rest := by
  induction p generalizing s with
  | nil => cases he; exact hin
  | cons c p ih =>
    obtain ⟨u, hu, hrest⟩ := execAll_cons_next he
    obtain ⟨hc, hp⟩ := List.forall_mem_cons.1 hp
    obtain ⟨taken, -, hfront, -, hlen, -⟩ := (exec_completes hu).2.framing (running_of_execAll hrest hok)
    have hsplit : taken ++ u.dataIn = c.2 ++ ((programOf p).dataIn ++ rest) := by
      rw [← hfront, hin, programOf_cons_dataIn, List.append_assoc]
    have hpayload : taken.length = c.2.length := hlen.trans (eq_of_beq hc).symm
    exact ih hp hrest (List.append_inj_right hsplit hpayload)

/-- No meaning takes a command word: the step does (R54). -/
theorem execAll_cmdPort {is : List Instr} {s t : State} (h : execAll is s = .next t) : t.cmdPort = s.cmdPort := by
  induction is generalizing s with
  | nil => cases h; rfl
  | cons i is ih =>
    obtain ⟨u, hu, hrest⟩ := execAll_cons_next h
    exact (ih hrest).trans (exec_streams hu).1

/-! ### The program's good end -/

/-- A run at the point where the host has issued a program's words and supplied its payloads, and the engine has yet to step. -/
def Run.fed (a : Assembled) (s : State) : Run :=
  ((Run.start s).acted (.issueWords a.words)).acted (.supplyBytes a.dataIn)

theorem events_fed (a : Assembled) (s : State) (es : List RunEvent) :
    Run.events (.hostActs (.issueWords a.words) :: .hostActs (.supplyBytes a.dataIn) :: es) (Run.start s) =
      Run.events es (Run.fed a s) := rfl

theorem Run.Accounts.fed (a : Assembled) (s : State) : (Run.fed a s).Accounts := ((Run.Accounts.start s).acted _).acted _

theorem fed_state (a : Assembled) {s : State} (hport : s.cmdPort = []) :
    (Run.fed a s).state = setPort a.words s.cmdIndex (supply a.dataIn s) := by
  simp [Run.fed, Run.acted, Run.start, setPort, issue, supply, hport]

theorem fed_hostSide (a : Assembled) {s : State} (hport : s.cmdPort = []) (hin : s.dataIn = []) :
    (Run.fed a s).hostSide = (a.words, a.dataIn, []) := by
  simp [Run.hostSide, Run.fed, Run.acted, Run.start, HostAct.words, HostAct.supplies, HostAct.run, HostAnswer.handed, hport, hin]

/-- Settles O51: the steps follow the meanings (`events_program`), the payloads are used up (`dataIn_of_dutiful`), and a run that
accounts for its words and bytes has then ended well. -/
theorem dutifulProgramsEndWell : Obligations.DutifulProgramsEndWell := by
  unfold Obligations.DutifulProgramsEndWell
  intro p s t _ hport hin hp he hok
  obtain ⟨r, hev, hend, hside⟩ := events_program (fun c hc => (hp c hc).1) he (fed_state _ hport)
  have hacc : r.Accounts := (Run.Accounts.fed _ s).events hev
  have htport : t.cmdPort = [] := (execAll_cmdPort he).trans hport
  have htin : t.dataIn = [] :=
    dataIn_of_dutiful (fun c hc => (hp c hc).2) he hok (by rw [supply_dataIn, hin, List.nil_append, List.append_nil])
  obtain ⟨hissued, hsupplied, hhanded⟩ :
      r.issued = (programOf p).words ∧ r.supplied = (programOf p).dataIn ∧ r.handed = [] := by
    simpa only [Run.hostSide, Prod.mk.injEq] using hside.trans (fed_hostSide _ hport hin)
  refine ⟨r, (events_fed _ _ _).trans hev, ?_, ?_, ?_⟩
  · rw [hend, setPort, htport]
  · rw [hacc.endsWell_iff, hend]
    exact ⟨hissued, hsupplied ▸ List.prefix_rfl, rfl, htin, hok⟩
  · rw [observe, hacc.emitted, hhanded, hend]
    rfl

end Sys2Proof.Machine
end

section
/-!
SUPPORT. The transform calls of a command by source and number of blocks (70_reset_and_hazards.md R201).
-/

namespace Sys2Proof.Machine

/-- A call as R153 writes it, `TransformCall(src, q)`. -/
def TransformCall.shape (c : TransformCall) : CallSrc × Nat := (c.src, c.blocks.length)

/-- The calls of an absorption whose carried bytes and payload are `n` together (R100). -/
def absorbShapes (n : Nat) : List (CallSrc × Nat) :=
  if n < 64 then [] else if n < 128 then [(.buf, 1)] else [(.buf, 1), (.data, (n - 64) / 64)]

/-- The calls of a suffix that is absorbed at `index` (R115). -/
def suffixShapes (index : Nat) : List (CallSrc × Nat) :=
  if index < 56 then [(.buf, 1)] else [(.buf, 1), (.buf, 1)]

/-- The calls of a command that completes without a fault (R201). -/
def commandShapes : Instr → State → List (CallSrc × Nat)
  | .init256, _      => []
  | .init224, _      => []
  | .update len, s   => absorbShapes (fill s + len)
  | .final256, s     => suffixShapes (fill s)
  | .final224, s     => suffixShapes (fill s)
  | .exportSnap, _   => []
  | .importSnap _, _ => []

/-- The blocks of some calls are as many as the calls' numbers of blocks together. -/
theorem flatMap_blocks_length (cs : List TransformCall) :
    (cs.flatMap (·.blocks)).length = ((cs.map TransformCall.shape).map Prod.snd).sum := by
  rw [List.length_flatMap, List.map_map]
  rfl

/-- An absorption passes all whole blocks of its bytes (R100). -/
theorem absorbShapes_sum (n : Nat) : ((absorbShapes n).map Prod.snd).sum = n / 64 := by
  unfold absorbShapes
  split
  · exact (Nat.div_eq_of_lt ‹_›).symm
  · split <;> simp only [List.map_cons, List.map_nil, List.sum_cons, List.sum_nil] <;> omega

/-- The slow path passes the buffer, and further whole blocks in one call if there are any (R94, R95). -/
theorem slowCalls_shapes {m : List Byte} (h : 64 ≤ m.length) : (slowCalls m).map TransformCall.shape = absorbShapes m.length := by
  rw [absorbShapes, if_neg (Nat.not_lt.2 h)]
  by_cases hone : m.length < 128
  · rw [if_pos hone, slowCalls_of_one_block hone]
    rfl
  · have hmore : 1 ≤ (m.drop 64).length / 64 := by
      rw [List.length_drop]
      omega
    rw [if_neg hone, slowCalls, if_pos hmore, List.map_cons, List.map_singleton, TransformCall.shape, TransformCall.shape,
      blocksOf_length, List.length_drop, List.length_singleton]

theorem absorb_payload_shapes {s : State} {len : Nat} (hd : len ≤ s.dataIn.length) :
    ∃ new, (absorb (s.dataIn.take len) { s with dataIn := s.dataIn.drop len }).calls = s.calls ++ new ∧
      new.map TransformCall.shape = absorbShapes (fill s + len) := by
  refine ⟨_, absorb_payload_calls s len, ?_⟩
  rw [← payload_length hd]
  split
  · rename_i hshort
    rw [absorbShapes, if_pos hshort, List.map_nil]
  · exact slowCalls_shapes (by omega)

theorem finishMessage_shapes (v : Variant) (s : State) :
    ∃ new, (finishMessage v s).calls = s.calls ++ new ∧ new.map TransformCall.shape = suffixShapes (fill s) := by
  rw [finishMessage_calls, suffixShapes]
  split
  · rename_i hlt
    obtain ⟨b, hcalls, -⟩ := absorbSuffix_calls_of_lt hlt
    exact ⟨_, hcalls, rfl⟩
  · rename_i hge
    obtain ⟨b, c, hcalls, -⟩ := absorbSuffix_calls_of_ge (Nat.le_of_not_lt hge)
    exact ⟨_, hcalls, rfl⟩

/-- What a command adds to the history: nothing by a fault, and the calls of `commandShapes` without one. -/
theorem Completes.shapes {i : Instr} {s t : State} (h : Completes s i t) (hr : s.faultCode = .none) :
    ∃ new, t.calls = s.calls ++ new ∧ (t.faultCode ≠ .none → new = []) ∧
      (t.faultCode = .none → new.map TransformCall.shape = commandShapes i s) := by
  cases h with
  | faulted i hfault => exact ⟨[], (List.append_nil _).symm, fun _ => rfl, fun hok => absurd hok hfault⟩
  | started v => exact ⟨[], (List.append_nil _).symm, fun _ => rfl, fun _ => by cases v <;> rfl⟩
  | absorbed len _ hdata =>
    obtain ⟨new, hcalls, hshapes⟩ := absorb_payload_shapes hdata
    exact ⟨new, hcalls, fun hfault => absurd ((absorbed_payload s len).faultCode.trans hr) hfault, fun _ => hshapes⟩
  | finished v _ =>
    obtain ⟨new, hcalls, hshapes⟩ := finishMessage_shapes v s
    obtain ⟨-, -, -, -, -, hcode, -⟩ := finishMessage_spec v s
    exact ⟨new, hcalls, fun hfault => absurd (hcode.trans hr) hfault, fun _ => hshapes.trans (by cases v <;> rfl)⟩
  | exported _ =>
    exact ⟨[], (exportSnapshot_calls s).trans (List.append_nil _).symm, fun _ => rfl, fun _ => rfl⟩
  | imported _ =>
    exact ⟨[], (loadSnapshot_calls _ _).trans (List.append_nil _).symm, fun _ => rfl, fun _ => rfl⟩

/-- Settles O40: one list of shapes per command (`Completes.shapes`), read off below and above each boundary. -/
theorem transformCallCounts : Obligations.TransformCallCounts := by
  unfold Obligations.TransformCallCounts
  intro i s t h
  obtain ⟨hr, hc⟩ := exec_completes h
  obtain ⟨new, hcalls, hfaulted, hshapes⟩ := hc.shapes hr
  refine ⟨new, hcalls, hfaulted, fun hi => ?_, ?_, ?_⟩
  · by_cases hok : t.faultCode = .none
    · have hnone : commandShapes i s = [] := by rcases hi with rfl | rfl | rfl | ⟨len, rfl⟩ <;> rfl
      exact List.map_eq_nil_iff.1 ((hshapes hok).trans hnone)
    · exact hfaulted hok
  · rintro len rfl hok
    have hupdate : new.map TransformCall.shape = absorbShapes (fill s + len) := hshapes hok
    refine ⟨fun hshort => ?_, fun hfull hone => ?_, fun hmore => ?_, ?_⟩
    · exact List.map_eq_nil_iff.1 (hupdate.trans (if_pos hshort))
    · exact hupdate.trans ((if_neg (by omega)).trans (if_pos hone))
    · exact hupdate.trans ((if_neg (by omega)).trans (if_neg (by omega)))
    · rw [flatMap_blocks_length, hupdate, absorbShapes_sum]
  · rintro (rfl | rfl) hok <;> exact hshapes hok

end Sys2Proof.Machine
end

section
/-!
SUPPORT. The way out of the halted state (70_reset_and_hazards.md R191).
-/

namespace Sys2Proof.Machine

/-- Settles O34: a halted engine has no step and takes no command, and no act of the host reaches a register. -/
theorem onlyResetLeavesTheHalt : Obligations.OnlyResetLeavesTheHalt := by
  unfold Obligations.OnlyResetLeavesTheHalt
  intro s hhalted
  refine ⟨fun t ht => ?_, fun i t ht => ?_, fun act => ?_, rfl, rfl, rfl⟩
  · cases (step_of_halted hhalted).symm.trans ht
  · cases (exec_of_halted hhalted i).symm.trans ht
  · obtain ⟨words, bytes, taken, left, -, hafter, -⟩ := hostActsReachNoRegister act s
    rw [hafter]
    exact ⟨rfl, rfl⟩

end Sys2Proof.Machine
end
